-- ==== Sys2Proof/Word.lean ====
section
/-!
DEFINITION. The words the core moves: 32-bit words, binary32 patterns, complex pairs and storage cells
(spec 00_scope.md R10, R11; 10_state.md R23, R27). Their arithmetic is in Machine/Float.lean.
-/

namespace Sys2Proof

/-- One byte of a host word (20_memory.md R61). -/
abbrev Byte := BitVec 8

/-- A host word, a command word or a micro-op word: always 32 bits (R10, R90). -/
abbrev Word := BitVec 32

/-- A 32-bit pattern read as IEEE-754 binary32 (R11). -/
abbrev F32 := BitVec 32

/-- A complex element: both parts are written together and read together (R11, R27). -/
structure C32 where
  re : F32
  im : F32
deriving DecidableEq, Repr, Inhabited

/-- A storage element: `none` holds no value, `some v` holds `v` (R11, R23). -/
abbrev Cell (α : Type) := Option α

/-- A buffer: its cells in index order, the first at index 0 (R22). -/
abbrev Buffer (α : Type) := List (Cell α)

end Sys2Proof
end

