-- ==== Sys2Proof/Config.lean ====
section
/-!
DEFINITION. What is fixed for one core: the implementation parameters (00_scope.md R7, R8; 92_eei_decisions.md, OPEN
parameters), the constants the spec names, and the free values, each an opaque constant without a body, so that no
proof can know what it is (93_implementation_defined.md U2, U3, U4, U15).
-/

namespace Sys2Proof

/-- How `powerRaw` is obtained (R168, R170, R178). -/
inductive PowerPath where
  | roundTrip
  | direct
deriving DecidableEq, Repr

/-- What the floor clamp does with a NaN (R7, R175). -/
inductive ClampNaN where
  | propagate
  | floor
deriving DecidableEq, Repr

/-- The parameters of one core that are data (R7). They are wiring and program text, not state: no rule changes them
(R9, R29). The model carries them in State so that every statement speaks of every legal core (log entry 2). -/
structure Params where
  /-- `N`, the frame length -/
  n : Nat
  /-- `BASE`, the byte address of the block -/
  base : Nat
  /-- `HANN_TAB` -/
  hannTab : List F32
  /-- `POWER_PATH` -/
  powerPath : PowerPath
  /-- `CLAMP_NAN` -/
  clampNaN : ClampNaN
  /-- `UROM`, the micro-program -/
  urom : List Word
deriving DecidableEq, Repr

/-- `NB = N/2 + 1` (R7). -/
def Params.nb (p : Params) : Nat := p.n / 2 + 1

/-- `ULEN`, the number of words of the micro-program (R29). -/
def Params.ulen (p : Params) : Nat := p.urom.length

/-- The constraints on the parameters: `N` even and `2 ≤ N ≤ 2046` (R8), one Hann coefficient per sample (R142 a), at
most 32 micro-program words (R192), a 16 KiB aligned base (OPEN parameters). -/
abbrev Params.wf (p : Params) : Prop :=
  p.n % 2 = 0 ∧ 2 ≤ p.n ∧ p.n ≤ 2046 ∧ p.hannTab.length = p.n ∧ p.urom.length ≤ 32 ∧ p.base % 0x4000 = 0

/-- The opaque FFT context (R37): the core never looks inside, it only hands it back. -/
structure Ctx where
  handle : Nat
deriving DecidableEq, Repr, Inhabited

namespace Config

/-- `ID` (R31): "LSPC". -/
def idValue : Word := 0x4C535043

/-- `FLOOR` (R176): the binary32 nearest to 10⁻³⁰. -/
def floorValue : F32 := 0x0DA24260

/-- The factor 10.0 of decibel mode (R173). -/
def ten : F32 := 0x41200000

/-- Free value: sign (bit 22) and low payload (bits 21 to 0) of the quiet NaN that operation `k` of lane `i` generates
when the draw counter reads `c` (R132, U2; log entry 5). -/
opaque nanDraw (c i k : Nat) : BitVec 23

/-- Free value: the draw `alloc_ok` of a CONSTRUCT (R205, U15; log entry 6). -/
opaque allocOk (c : Nat) : Bool

/-- Free value: what the engine answers to `init(n)`, `none` for `error` (R152, U3; log entry 6). -/
opaque fftInit (c n : Nat) : Option Ctx

/-- Free value: whether the engine answers `ok` to a `forward` request (R152, U3; log entry 6). -/
opaque fftForwardOk (c : Nat) : Bool

/-- Free value: element `k` of the engine's answer `y` to `forward(ctx, x)`, a function of the context and the input
alone (R152, R153; log entry 6). -/
opaque fftValue (ctx : Ctx) (x : List C32) (k : Nat) : C32

/-- Free value: `LOG10F`, a function of its argument alone (R172, U4; log entry 7); which NaN it returns never shows. -/
opaque log10f (p : F32) : F32

/-- Free value: `LNF`, a function of its argument alone (R172, U4; log entry 7), but for which NaN it returns, which is a
draw (R132, U2; log entry 18). -/
opaque lnf (p : F32) : F32

/-- Entries 0 to 15 of the table of R146. -/
def hann0 : List F32 :=
  [0x00000000, 0x3A2060A9, 0x3B20478A, 0x3BB4216B, 0x3C1FE331, 0x3C795D97, 0x3CB323ED, 0x3CF32EDF,
   0x3D1E53C1, 0x3D47AFE8, 0x3D7591FA, 0x3D93EE9D, 0x3DAF3913, 0x3DCC9745, 0x3DEBF6CF, 0x3E06A204]

/-- Entries 16 to 31 of the table of R146. -/
def hann1 : List F32 :=
  [0x3E183509, 0x3E2AA975, 0x3E3DF3B8, 0x3E5207BD, 0x3E66D8EF, 0x3E7C5A43, 0x3E893F20, 0x3E949B85,
   0x3EA03B30, 0x3EAC16DB, 0x3EB82717, 0x3EC46456, 0x3ED0C6ED, 0x3EDD4719, 0x3EE9DD06, 0x3EF680D1]

/-- Entries 32 to 47 of the table of R146. -/
def hann2 : List F32 :=
  [0x3F019548, 0x3F07E929, 0x3F0E3815, 0x3F147E19, 0x3F1AB747, 0x3F20DFB8, 0x3F26F390, 0x3F2CEF02,
   0x3F32CE4D, 0x3F388DC5, 0x3F3E29CE, 0x3F439EE6, 0x3F48E9A0, 0x3F4E06AE, 0x3F52F2D9, 0x3F57AB0E]

/-- Entries 48 to 63 of the table of R146. -/
def hann3 : List F32 :=
  [0x3F5C2C57, 0x3F6073E1, 0x3F647EFE, 0x3F684B26, 0x3F6BD5F7, 0x3F6F1D3A, 0x3F721EE1, 0x3F74D90A,
   0x3F7749FE, 0x3F797038, 0x3F7B4A5D, 0x3F7CD746, 0x3F7E15F8, 0x3F7F05AE, 0x3F7FA5D0, 0x3F7FF5FA]

/-- Entries 64 to 79 of the table of R146. -/
def hann4 : List F32 :=
  [0x3F7FF5FA, 0x3F7FA5D0, 0x3F7F05AE, 0x3F7E15F8, 0x3F7CD746, 0x3F7B4A5D, 0x3F797038, 0x3F7749FE,
   0x3F74D90A, 0x3F721EE1, 0x3F6F1D3A, 0x3F6BD5F7, 0x3F684B26, 0x3F647EFE, 0x3F6073E1, 0x3F5C2C57]

/-- Entries 80 to 95 of the table of R146. -/
def hann5 : List F32 :=
  [0x3F57AB0E, 0x3F52F2D9, 0x3F4E06AE, 0x3F48E9A0, 0x3F439EE6, 0x3F3E29CE, 0x3F388DC5, 0x3F32CE4D,
   0x3F2CEF02, 0x3F26F390, 0x3F20DFB8, 0x3F1AB747, 0x3F147E19, 0x3F0E3815, 0x3F07E929, 0x3F019548]

/-- Entries 96 to 111 of the table of R146. -/
def hann6 : List F32 :=
  [0x3EF680D1, 0x3EE9DD06, 0x3EDD4719, 0x3ED0C6ED, 0x3EC46456, 0x3EB82717, 0x3EAC16DB, 0x3EA03B30,
   0x3E949B85, 0x3E893F20, 0x3E7C5A43, 0x3E66D8EF, 0x3E5207BD, 0x3E3DF3B8, 0x3E2AA975, 0x3E183509]

/-- Entries 112 to 127 of the table of R146. -/
def hann7 : List F32 :=
  [0x3E06A204, 0x3DEBF6CF, 0x3DCC9745, 0x3DAF3913, 0x3D93EE9D, 0x3D7591FA, 0x3D47AFE8, 0x3D1E53C1,
   0x3CF32EDF, 0x3CB323ED, 0x3C795D97, 0x3C1FE331, 0x3BB4216B, 0x3B20478A, 0x3A2060A9, 0x00000000]

/-- `HANN_TAB` for N = 128 (R146). -/
def hannTab128 : List F32 := hann0 ++ hann1 ++ hann2 ++ hann3 ++ hann4 ++ hann5 ++ hann6 ++ hann7

/-- The normative micro-program for N = 128, word by word (R183). -/
def urom128 : List Word :=
  [0x04410080, 0x20420080, 0x41220080, 0x45490080, 0x486A0041,
   0x4C8A0041, 0x24A32041, 0x28A50041, 0x2CC50041, 0x00000000]

end Config

/-- The reference instance: this hardware (R7, R183). `BASE` has no reference value and stands at 0 here (log entry 2). -/
def Params.reference : Params :=
  { n := 128, base := 0, hannTab := Config.hannTab128, powerPath := .roundTrip, clampNaN := .propagate,
    urom := Config.urom128 }

end Sys2Proof
end

