-- ==== Sys2Proof/Syntax.lean ====
section
/-!
DEFINITION. The instructions: one constructor for each of the 17 rows of spec/opcode_table.json, 14 micro-ops of
format U and 3 host commands of format H (30_encoding.md R90 to R97), and the names their operands use.
-/

namespace Sys2Proof

/-- What a 5-bit buffer field names (10_state.md R22): id 0, the ten buffers 1 to 10, and the reserved ids 11 to 31. -/
inductive BufId where
  /-- id 0: "no operand" -/
  | noBuf
  /-- id 1: `IN` -/
  | input
  /-- id 2: `WORK` -/
  | work
  /-- id 3: `RE` -/
  | re
  /-- id 4: `IM` -/
  | im
  /-- id 5: `ACC` -/
  | acc
  /-- id 6: `OUT` -/
  | out
  /-- id 7: `HANN` -/
  | hann
  /-- id 8: `PCOEF` -/
  | pcoef
  /-- id 9: `FIN` -/
  | fin
  /-- id 10: `FOUT` -/
  | fout
  /-- ids 11 to 31, as 11 + k -/
  | reserved (k : Fin 21)
deriving DecidableEq, Repr

/-- The three host commands, as `cmd_l` holds them (10_state.md R20, R36). -/
inductive Command where
  | construct
  | transform
  | destroy
deriving DecidableEq, Repr

/-- The instruction set. A micro-op carries the ids and the lane count its word names (R93, R96, R97), legal or not:
the legality of the operands (R108 steps 3 to 5) is judged when it executes. -/
inductive Instr where
  | done
  | copy (dst sa : BufId) (len : Nat)
  | add (dst sa sb : BufId) (len : Nat)
  | mul (dst sa sb : BufId) (len : Nat)
  | sqrt (dst sa : BufId) (len : Nat)
  | sqr (dst sa : BufId) (len : Nat)
  | winmul (dst sa : BufId) (len : Nat)
  | cmag (dst sa sb : BufId) (len : Nat)
  | pnorm (dst sa : BufId) (len : Nat)
  | logc (dst sa : BufId) (len : Nat)
  | pack (dst sa : BufId) (len : Nat)
  | fft (dst sa : BufId) (len : Nat)
  | real (dst sa : BufId) (len : Nat)
  | imag (dst sa : BufId) (len : Nat)
  | construct
  | transform
  | destroy
deriving DecidableEq, Repr

end Sys2Proof
end

