-- ==== Sys2Proof/Machine/State.lean ====
section
/-!
DEFINITION. The state of the machine (10_state.md R20 to R46), the reasons a step can stop, and the state after reset
(R39). Everything is plain data.
-/

namespace Sys2Proof.Machine

/-- `life` (R21). -/
inductive Life where
  | uninitialized
  | ready
  | destroyed
deriving DecidableEq, Repr

/-- `STATUS.ERR` (R221). Codes 7 to 15 are never produced, so they are no values here. -/
inductive ErrCode where
  | noError
  | resourceExhaustion
  | transformFailure
  | illegalState
  | illegalCommand
  | illegalMicroOp
  | operandFault
deriving DecidableEq, Repr

/-- A host access on the bus: a byte address, a width in bytes and, for a store, the word (20_memory.md R62, R63). -/
inductive Access where
  | load (addr width : Nat)
  | store (addr width : Nat) (v : Word)
deriving DecidableEq, Repr

/-- What the bus answers to the host (R62, R63, R66). -/
inductive Reply where
  /-- the word a load returns -/
  | data (v : Word)
  /-- a store was taken (or ignored by a read-only location) -/
  | stored
  /-- the error response of R66 -/
  | busError
deriving DecidableEq, Repr

/-- A request the core presents on the engine port (42_fft_port.md R158). -/
inductive EngineRequest where
  | init (n : Nat)
  | forward (ctx : Ctx) (x : List C32)
  | release (ctx : Ctx)
deriving DecidableEq, Repr

/-- One atomic step of the interleaving of agents (00_scope.md R16, 20_memory.md R75), or the reset input (R250). -/
inductive Turn where
  /-- the sequencer steps -/
  | sequencer
  /-- the host performs an access -/
  | host (a : Access)
  /-- the reset input is asserted -/
  | reset
deriving DecidableEq, Repr

/-- The machine's state. `life` to `ctx` are R20's table, row by row. `params` are the core's parameters (R7), which no
rule changes. `agenda`, `reply`, `port` and `draws` are the MODEL'S own fields: the turns the outside world has chosen,
oldest first; the last bus answer and the last engine request, as they appear outside; the counter the free values are
applied to. -/
structure State where
  params : Params
  life : Life
  inp : Buffer F32
  work : Buffer F32
  re : Buffer F32
  im : Buffer F32
  acc : Buffer F32
  out : Buffer F32
  hann : Buffer F32
  pcoef : Buffer F32
  fin : Buffer C32
  fout : Buffer C32
  upc : Nat
  busy : Bool
  done : Bool
  ovr : Bool
  err : ErrCode
  logmode : Bool
  logmodeL : Bool
  cmdL : Option Command
  ctx : Option Ctx
  agenda : List Turn
  reply : Option Reply
  port : Option EngineRequest
  draws : Nat
deriving DecidableEq, Repr

/-- Faults of the MODEL: the machine stops where the spec gives storage no value (R24). No hardware fault is here: the
hardware's errors are next states with `ERR` set. -/
inductive Fault where
  /-- A micro-op lane or a host load read an element that holds no value (R24, U1). Raised by every micro-op that reads
  a buffer and by a host load of `IN` or `OUT`. Safe: hardware would go on with some value. -/
  | unwrittenRead (b : BufId)
  /-- An `FFT` micro-op found `ctx = none`. Raised by `FFT` only; it cannot happen in a run (R156). Safe. -/
  | noContext
deriving DecidableEq, Repr

/-- Refusals of the model. -/
inductive Refusal where
  /-- The instruction has no meaning in the model. Raised by an arm of exec, and no arm raises it. Safe. -/
  | notModelled (mnemonic : String)
deriving DecidableEq, Repr

/-- The outcome of a step or of an instruction. -/
abbrev Result := Host.Outcome State Fault Refusal

/-- The reset values of R39 for a core with parameters `p`; the model's own fields are empty. -/
def State.powerOn (p : Params) : State :=
  { params := p
    life := .uninitialized
    inp := List.replicate p.n none
    work := List.replicate p.n none
    re := List.replicate p.nb none
    im := List.replicate p.nb none
    acc := List.replicate p.nb none
    out := List.replicate p.nb none
    hann := List.replicate p.n none
    pcoef := List.replicate p.n none
    fin := List.replicate p.n none
    fout := List.replicate p.n none
    upc := 0
    busy := false
    done := false
    ovr := false
    err := .noError
    logmode := false
    logmodeL := false
    cmdL := none
    ctx := none
    agenda := []
    reply := none
    port := none
    draws := 0 }

/-- The machine right after reset: the reference instance (R39). -/
def State.reset : State := State.powerOn Params.reference

end Sys2Proof.Machine
end

