-- ==== Sys2Proof/Machine/Flags.lean ====
section
/-!
DEFINITION. The status flags, the registers the host reads, and every way a rule changes the flags (10_state.md R30 to
R34, R43, R46; 45_host_commands.md R202; 44_pipeline_fsm.md R184, R187).
-/

namespace Sys2Proof.Machine

/-- `STATUS.LIFE` (R21). -/
def Life.code : Life → BitVec 2
  | .uninitialized => 0
  | .ready => 1
  | .destroyed => 2

/-- `STATUS.ERR` (R221). -/
def ErrCode.code : ErrCode → BitVec 4
  | .noError => 0
  | .resourceExhaustion => 1
  | .transformFailure => 2
  | .illegalState => 3
  | .illegalCommand => 4
  | .illegalMicroOp => 5
  | .operandFault => 6

namespace State

/-- `STATUS`: LIFE 1:0, BUSY 2, DONE 3, ERR 7:4, UPC 12:8, OVR 13, the rest 0 (R32). -/
def statusWord (s : State) : Word :=
  (0 : BitVec 18) ++ BitVec.ofBool s.ovr ++ BitVec.ofNat 5 s.upc ++ s.err.code ++ BitVec.ofBool s.done ++
    BitVec.ofBool s.busy ++ s.life.code

/-- `CTRL`: LOGMODE in bit 0, the rest 0 (R33). -/
def ctrlWord (s : State) : Word := (0 : BitVec 31) ++ BitVec.ofBool s.logmode

/-- A store to `CTRL` keeps bit 0 only (R33, R63). -/
def storeCtrl (s : State) (v : Word) : State := { s with logmode := v.getLsbD 0 }

/-- The level outputs `busy`, `done`, `err` (R46). -/
def busyOut (s : State) : Bool := s.busy
def doneOut (s : State) : Bool := s.done
def errOut (s : State) : Bool := decide (s.err ≠ .noError)

/-- Acceptance of a command (R202). -/
def accept (s : State) (c : Command) : State :=
  { s with busy := true, done := false, err := .noError, ovr := false, cmdL := some c }

/-- A `CMD` store that is judged and not accepted: only `ERR` and `DONE` change (R201 steps 2 and 3). -/
def reject (s : State) (e : ErrCode) : State := { s with err := e, done := false }

/-- A `CMD` store while `BUSY = 1` (R201 step 1, R204). -/
def overrun (s : State) : State := { s with ovr := true }

/-- The successful end of a command (R187, R205, R211). -/
def succeed (s : State) : State := { s with busy := false, done := true, err := .noError, cmdL := none }

end State

/-- The sequencer's states (R184). -/
inductive FsmState where
  | idle
  | sConstruct
  | sDestroy
  | sLoad
  | sWindow
  | sPack
  | sFft
  | sMagpow
  | sLog
  | sDone
deriving DecidableEq, Repr

/-- The sequencer's state is a function of `(cmd_l, upc)` (R184); outside the table's `upc` it has no name. -/
def State.fsm (s : State) : Option FsmState :=
  match s.cmdL with
  | none => some .idle
  | some .construct => some .sConstruct
  | some .destroy => some .sDestroy
  | some .transform =>
    match s.upc with
    | 0 => some .sLoad
    | 1 => some .sWindow
    | 2 => some .sPack
    | 3 => some .sFft
    | 4 | 5 | 6 | 7 => some .sMagpow
    | 8 => some .sLog
    | 9 => some .sDone
    | _ => none

end Sys2Proof.Machine
end

