-- ==== Sys2Proof/Machine/Float.lean ====
section
/-!
DEFINITION. Binary32 numerics (40_vector_kernels.md R123 to R126, R132, R133; 43_core_kernels.md R175) and the lane
functions of the core kernels (R168, R170, R173, R174, R178).

Every finite value is a whole multiple of 2⁻¹⁴⁹, so a magnitude is a natural number of units of 2⁻¹⁴⁹, sums are exact
integers of that unit and products exact integers of the unit 2⁻²⁹⁸. Results are rounded once, by `roundMag`.
-/

namespace Sys2Proof

namespace F32

/-! ### The format (R123) -/

/-- Bit 31. -/
def sign (a : F32) : Bool := a.getLsbD 31

/-- Bits 30:23. -/
def expo (a : F32) : Nat := (a.extractLsb' 23 8).toNat

/-- Bits 22:0. -/
def frac (a : F32) : Nat := (a.extractLsb' 0 23).toNat

/-- Bits 30:0: the pattern without its sign. Among numbers it is ordered as the magnitude is. -/
def mag (a : F32) : Nat := (a.extractLsb' 0 31).toNat

/-- The pattern with sign `s` and magnitude bits `m`. -/
def ofMag (s : Bool) (m : Nat) : F32 := BitVec.ofBool s ++ BitVec.ofNat 31 m

/-- The magnitude bits of infinity. -/
def infMag : Nat := 0x7F800000

def isNaN (a : F32) : Bool := a.expo == 255 && a.frac != 0
def isInf (a : F32) : Bool := a.expo == 255 && a.frac == 0
def isFinite (a : F32) : Bool := a.expo != 255

/-- The magnitude of a finite number in units of 2⁻¹⁴⁹ (R123). -/
def units (a : F32) : Nat :=
  if a.expo = 0 then a.frac else (2 ^ 23 + a.frac) * 2 ^ (a.expo - 1)

/-- The value of a finite number in units of 2⁻¹⁴⁹. -/
def signedUnits (a : F32) : Int := if a.sign then -(a.units : Int) else (a.units : Int)

/-! ### Rounding (R133) -/

/-- How many low bits of `n` (a magnitude in units of 2⁻¹⁴⁹⁻ᵏ) are below the last place of a binary32 result: 24
significant bits are kept, and nothing below 2⁻¹⁴⁹. -/
def dropBits (n k : Nat) : Nat := max k (n.log2 + 1 - 24)

/-- `n / 2 ^ d` to the nearest integer, ties to even. -/
def shiftRNE (n d : Nat) : Nat :=
  let q := n / 2 ^ d
  let r := n % 2 ^ d
  if 2 * r < 2 ^ d ∨ (2 * r = 2 ^ d ∧ q % 2 = 0) then q else q + 1

/-- The magnitude bits of `RN(n · 2⁻¹⁴⁹⁻ᵏ)`: round to nearest, ties to even, gradual underflow, overflow to infinity. -/
def roundMag (n k : Nat) : Nat :=
  min ((dropBits n k - k) * 2 ^ 23 + shiftRNE n (dropBits n k)) infMag

/-! ### The operations; `nan` is the quiet NaN drawn for the case that the result is a NaN (R132) -/

/-- A quiet NaN from 23 free bits: sign, `e = 255`, bit 22 set, the rest of the payload (R132). -/
def quietNaN (d : BitVec 23) : F32 :=
  d.extractLsb' 22 1 ++ (0xFF : BitVec 8) ++ (1 : BitVec 1) ++ d.extractLsb' 0 22

/-- `fadd` (R124). -/
def fadd (nan a b : F32) : F32 :=
  if a.isNaN || b.isNaN then nan
  else if a.isInf then (if b.isInf && (a.sign != b.sign) then nan else a)
  else if b.isInf then b
  else
    let x := a.signedUnits + b.signedUnits
    if x = 0 then ofMag (a.sign && b.sign) 0 else ofMag (decide (x < 0)) (roundMag x.natAbs 0)

/-- `fmul` (R125). -/
def fmul (nan a b : F32) : F32 :=
  if a.isNaN || b.isNaN then nan
  else if a.isInf || b.isInf then
    (if a.mag = 0 ∨ b.mag = 0 then nan else ofMag (a.sign != b.sign) infMag)
  else ofMag (a.sign != b.sign) (roundMag (a.units * b.units) 149)

/-- The greatest `r + t` with `t < 2 ^ k` whose square is at most `n`. -/
def isqrtFrom (n : Nat) : Nat → Nat → Nat
  | 0, r => r
  | k + 1, r => if (r + 2 ^ k) * (r + 2 ^ k) ≤ n then isqrtFrom n k (r + 2 ^ k) else isqrtFrom n k r

/-- The integer square root, for `n < 2 ^ 426`. -/
def isqrt (n : Nat) : Nat := isqrtFrom n 213 0

/-- Twice `x`, plus one when something below `x` was cut off: as far as rounding can see, the exact number. -/
def withSticky (x : Nat) (cut : Bool) : Nat := 2 * x + (if cut then 1 else 0)

/-- `fsqrt` (R126). The root of `u · 2⁻¹⁴⁹` is `√(u · 2¹⁴⁹) · 2⁻¹⁴⁹`. -/
def fsqrt (nan a : F32) : F32 :=
  if a.isNaN then nan
  else if a.mag = 0 then a
  else if a.sign then nan
  else if a.isInf then a
  else
    let n := a.units * 2 ^ 149
    let r := isqrt n
    ofMag false (roundMag (withSticky r (r * r != n)) 1)

/-- The IEEE-754 comparison `a < b`: false if an operand is a NaN (R175). -/
def flt (a b : F32) : Bool :=
  let key (x : F32) : Int := if x.sign then -(x.mag : Int) else (x.mag : Int)
  !a.isNaN && !b.isNaN && decide (key a < key b)

end F32

/-- The quiet NaN of operation `k` of lane `i` at draw counter `c` (R132, log entry 5). -/
def freshNaN (c i k : Nat) : F32 := F32.quietNaN (Config.nanDraw c i k)

/-- `PCOEF_VAL = RN(1 / N²)` (R143). -/
def pcoefVal (n : Nat) : F32 :=
  F32.ofMag false (F32.roundMag (F32.withSticky (2 ^ 149 / (n * n)) (2 ^ 149 % (n * n) != 0)) 1)

/-! ### Lane functions of the core kernels; `nan k` is the quiet NaN drawn for the lane's operation `k` -/

/-- `CMAG`: the magnitude (R168), or `powerRaw` itself under `DIRECT` (R178). -/
def cmagLane (path : PowerPath) (nan : Nat → F32) (x y : F32) : F32 :=
  let t0 := F32.fmul (nan 0) x x
  let t1 := F32.fmul (nan 1) y y
  let s := F32.fadd (nan 2) t0 t1
  match path with
  | .roundTrip => F32.fsqrt (nan 3) s
  | .direct => s

/-- `PNORM`: the magnitude squared times `1/N²` (R170), or `powerRaw` times `1/N²` under `DIRECT` (R178). -/
def pnormLane (path : PowerPath) (nan : Nat → F32) (x c : F32) : F32 :=
  match path with
  | .roundTrip => F32.fmul (nan 1) (F32.fmul (nan 0) x x) c
  | .direct => F32.fmul (nan 0) x c

/-- The floor clamp (R175): a NaN passes under `PROPAGATE` and becomes `FLOOR` under the other value of `CLAMP_NAN`. -/
def clampLane (mode : ClampNaN) (p : F32) : F32 :=
  if F32.flt p Config.floorValue then Config.floorValue
  else
    match mode with
    | .propagate => p
    | .floor => if p.isNaN then Config.floorValue else p

/-- A result of a function that leaves open which NaN it returns: any NaN is the drawn quiet NaN (R132, U2). -/
def F32.orDrawn (nan r : F32) : F32 := if r.isNaN then nan else r

/-- `LOGC`: decibels when the latched mode bit is 0 (R173), the natural logarithm when it is 1 (R174). In both modes a NaN
is the drawn one (R132, U2); every other result of `LNF` is a function of the argument alone (R172, log entry 18). -/
def logcLane (log10f lnf : F32 → F32) (mode : ClampNaN) (natural : Bool) (nan : F32) (p : F32) : F32 :=
  if natural then F32.orDrawn nan (lnf (clampLane mode p))
  else F32.fmul nan Config.ten (log10f (clampLane mode p))

end Sys2Proof
end

