-- ==== Sys2Proof/WellFormed.lean ====
section
/-!
DEFINITION. When an instruction is in a legal form: the operand table of 30_encoding.md R95, read row by row. The
machine's own check, in the order of R108, is in Machine/Operands.lean; that the two agree is a statement of its own.
-/

namespace Sys2Proof

/-- "real": a buffer of F32 cells, ids 1 to 8 (R95). -/
def BufId.isReal : BufId → Bool
  | .input | .work | .re | .im | .acc | .out | .hann | .pcoef => true
  | .noBuf | .fin | .fout | .reserved _ => false

/-- "real-W": a writable real buffer, ids 2 to 6 (R95). -/
def BufId.isRealW : BufId → Bool
  | .work | .re | .im | .acc | .out => true
  | .noBuf | .input | .hann | .pcoef | .fin | .fout | .reserved _ => false

/-- "complex" and "complex-W": ids 9 and 10 (R95). -/
def BufId.isComplex : BufId → Bool
  | .fin | .fout => true
  | .noBuf | .input | .work | .re | .im | .acc | .out | .hann | .pcoef | .reserved _ => false

/-- The length of each buffer (R22). -/
def Params.bufLen (p : Params) : BufId → Nat
  | .input | .work | .hann | .pcoef | .fin | .fout => p.n
  | .re | .im | .acc | .out => p.nb
  | .noBuf | .reserved _ => 0

namespace Instr

/-- The row of R95 with one real source. -/
def wfUnary (p : Params) (dst sa : BufId) (len : Nat) : Bool :=
  dst.isRealW && sa.isReal && decide (1 ≤ len ∧ len ≤ p.bufLen dst ∧ len ≤ p.bufLen sa)

/-- The row of R95 with two real sources. -/
def wfBinary (p : Params) (dst sa sb : BufId) (len : Nat) : Bool :=
  wfUnary p dst sa len && sb.isReal && decide (len ≤ p.bufLen sb)

/-- The legal forms (R95, R107). -/
def wellFormed (p : Params) : Instr → Bool
  | .done => true
  | .copy dst sa len => wfUnary p dst sa len
  | .add dst sa sb len => wfBinary p dst sa sb len
  | .mul dst sa sb len => wfBinary p dst sa sb len
  | .sqrt dst sa len => wfUnary p dst sa len
  | .sqr dst sa len => wfUnary p dst sa len
  | .winmul dst sa len => wfUnary p dst sa len && decide (len ≤ p.n)
  | .cmag dst sa sb len => wfBinary p dst sa sb len
  | .pnorm dst sa len => wfUnary p dst sa len && decide (len ≤ p.n)
  | .logc dst sa len => wfUnary p dst sa len
  | .pack dst sa len =>
    dst.isComplex && sa.isReal && decide (1 ≤ len ∧ len ≤ p.bufLen dst ∧ len ≤ p.bufLen sa)
  | .fft dst sa len => decide (dst = .fout ∧ sa = .fin ∧ len = p.n)
  | .real dst sa len =>
    dst.isRealW && sa.isComplex && decide (1 ≤ len ∧ len ≤ p.bufLen dst ∧ len ≤ p.bufLen sa)
  | .imag dst sa len =>
    dst.isRealW && sa.isComplex && decide (1 ≤ len ∧ len ≤ p.bufLen dst ∧ len ≤ p.bufLen sa)
  | .construct => true
  | .transform => true
  | .destroy => true

/-- The lane count fits the 11-bit field `len` (R93): what every decoded instruction satisfies, legal or not. -/
def encodable : Instr → Bool
  | .done | .construct | .transform | .destroy => true
  | .copy _ _ len | .sqrt _ _ len | .sqr _ _ len | .winmul _ _ len | .pnorm _ _ len | .logc _ _ len
  | .pack _ _ len | .fft _ _ len | .real _ _ len | .imag _ _ len => decide (len < 2048)
  | .add _ _ _ len | .mul _ _ _ len | .cmag _ _ _ len => decide (len < 2048)

/-- The host commands are format H; every other instruction is a micro-op of format U (R90). -/
def isMicroOp : Instr → Bool
  | .construct | .transform | .destroy => false
  | .done | .copy .. | .add .. | .mul .. | .sqrt .. | .sqr .. | .winmul .. | .cmag .. | .pnorm .. | .logc ..
  | .pack .. | .fft .. | .real .. | .imag .. => true

end Instr

end Sys2Proof
end

