-- ==== Sys2Proof/Decode.lean ====
section
/-!
DEFINITION. Decoding and encoding of the two word formats (30_encoding.md R90 to R113). Decoding covers steps 1 and 2
of R108 (reserved opcode, non-zero must-be-zero field); steps 3 to 5 judge the operands when the micro-op executes.
-/

namespace Sys2Proof

/-- Why a word is no instruction. -/
inductive DecodeError where
  /-- step 1 of R108: `op` is reserved (R99) -/
  | reservedOpcode
  /-- step 2 of R108: a must-be-zero field is not zero (R98) -/
  | mustBeZero
  /-- a `CMD` word other than 1, 2, 3 (R92, R100) -/
  | illegalCommand
deriving DecidableEq, Repr

/-! ### Fields (R91, R93, R113) -/

def fieldOp (w : Word) : BitVec 6 := w.extractLsb' 26 6
def fieldDst (w : Word) : BitVec 5 := w.extractLsb' 21 5
def fieldSa (w : Word) : BitVec 5 := w.extractLsb' 16 5
def fieldSb (w : Word) : BitVec 5 := w.extractLsb' 11 5
def fieldLen (w : Word) : BitVec 11 := w.extractLsb' 0 11
def fieldHop (v : Word) : BitVec 8 := v.extractLsb' 0 8
def fieldHz (v : Word) : BitVec 24 := v.extractLsb' 8 24

/-- A buffer id is the literal 5-bit number (R97, R22). -/
def BufId.ofBits (b : BitVec 5) : BufId :=
  match b.toNat with
  | 0 => .noBuf
  | 1 => .input
  | 2 => .work
  | 3 => .re
  | 4 => .im
  | 5 => .acc
  | 6 => .out
  | 7 => .hann
  | 8 => .pcoef
  | 9 => .fin
  | 10 => .fout
  | n => .reserved (Fin.ofNat 21 (n - 11))

/-- The 5-bit number of a buffer (R22). -/
def BufId.toBits : BufId → BitVec 5
  | .noBuf => 0
  | .input => 1
  | .work => 2
  | .re => 3
  | .im => 4
  | .acc => 5
  | .out => 6
  | .hann => 7
  | .pcoef => 8
  | .fin => 9
  | .fout => 10
  | .reserved k => BitVec.ofNat 5 (11 + k.val)

/-- A micro-op with one source: `sb` must be zero (R95, R98). -/
def decodeUnary (make : BufId → BufId → Nat → Instr) (w : Word) : Except DecodeError Instr :=
  if fieldSb w = 0 then
    .ok (make (.ofBits (fieldDst w)) (.ofBits (fieldSa w)) (fieldLen w).toNat)
  else .error .mustBeZero

/-- A micro-op with two sources: no must-be-zero field (R95). -/
def decodeBinary (make : BufId → BufId → BufId → Nat → Instr) (w : Word) : Except DecodeError Instr :=
  .ok (make (.ofBits (fieldDst w)) (.ofBits (fieldSa w)) (.ofBits (fieldSb w)) (fieldLen w).toNat)

/-- Format U: the opcode map of R94; every other opcode is reserved (R99). -/
def decodeMicroOp (w : Word) : Except DecodeError Instr :=
  match (fieldOp w).toNat with
  | 0x00 => if w = 0 then .ok .done else .error .mustBeZero
  | 0x01 => decodeUnary .copy w
  | 0x02 => decodeBinary .add w
  | 0x03 => decodeBinary .mul w
  | 0x04 => decodeUnary .sqrt w
  | 0x05 => decodeUnary .sqr w
  | 0x08 => decodeUnary .winmul w
  | 0x09 => decodeBinary .cmag w
  | 0x0A => decodeUnary .pnorm w
  | 0x0B => decodeUnary .logc w
  | 0x10 => decodeUnary .pack w
  | 0x11 => decodeUnary .fft w
  | 0x12 => decodeUnary .real w
  | 0x13 => decodeUnary .imag w
  | _ => .error .reservedOpcode

/-- Format H: the command decode of R92. -/
def decodeCommand (v : Word) : Except DecodeError Instr :=
  if fieldHz v = 0 then
    match (fieldHop v).toNat with
    | 1 => .ok .construct
    | 2 => .ok .transform
    | 3 => .ok .destroy
    | _ => .error .illegalCommand
  else .error .illegalCommand

/-! ### Encoding -/

/-- `word = op ++ dst ++ sa ++ sb ++ len` (R93). -/
def encodeU (op : BitVec 6) (dst sa sb : BufId) (len : Nat) : Word :=
  op ++ dst.toBits ++ sa.toBits ++ sb.toBits ++ BitVec.ofNat 11 len

/-- The word of an instruction (R92, R93, R94). -/
def encode : Instr → Word
  | .done => 0
  | .copy dst sa len => encodeU 0x01 dst sa .noBuf len
  | .add dst sa sb len => encodeU 0x02 dst sa sb len
  | .mul dst sa sb len => encodeU 0x03 dst sa sb len
  | .sqrt dst sa len => encodeU 0x04 dst sa .noBuf len
  | .sqr dst sa len => encodeU 0x05 dst sa .noBuf len
  | .winmul dst sa len => encodeU 0x08 dst sa .noBuf len
  | .cmag dst sa sb len => encodeU 0x09 dst sa sb len
  | .pnorm dst sa len => encodeU 0x0A dst sa .noBuf len
  | .logc dst sa len => encodeU 0x0B dst sa .noBuf len
  | .pack dst sa len => encodeU 0x10 dst sa .noBuf len
  | .fft dst sa len => encodeU 0x11 dst sa .noBuf len
  | .real dst sa len => encodeU 0x12 dst sa .noBuf len
  | .imag dst sa len => encodeU 0x13 dst sa .noBuf len
  | .construct => 1
  | .transform => 2
  | .destroy => 3

/-- Decoding in the format an instruction belongs to (R90): a command is read by R92, a micro-op by R94. -/
def decodeAs (microOp : Bool) (w : Word) : Except DecodeError Instr :=
  if microOp then decodeMicroOp w else decodeCommand w

/-! ### The opcode table (R112, spec/opcode_table.json) -/

/-- One row: `(word & mask) = pattern` selects the mnemonic. -/
structure OpcodeRow where
  mnemonic : String
  mask : Word
  pattern : Word
deriving DecidableEq, Repr

/-- Whether a word belongs to a row (R112). -/
def OpcodeRow.selects (r : OpcodeRow) (w : Word) : Bool := w &&& r.mask == r.pattern

/-- The 14 rows of format U. -/
def microOpRows : List OpcodeRow :=
  [⟨"DONE", 0xFFFFFFFF, 0x00000000⟩, ⟨"COPY", 0xFC00F800, 0x04000000⟩, ⟨"ADD", 0xFC000000, 0x08000000⟩,
   ⟨"MUL", 0xFC000000, 0x0C000000⟩, ⟨"SQRT", 0xFC00F800, 0x10000000⟩, ⟨"SQR", 0xFC00F800, 0x14000000⟩,
   ⟨"WINMUL", 0xFC00F800, 0x20000000⟩] ++
  [⟨"CMAG", 0xFC000000, 0x24000000⟩, ⟨"PNORM", 0xFC00F800, 0x28000000⟩, ⟨"LOGC", 0xFC00F800, 0x2C000000⟩,
   ⟨"PACK", 0xFC00F800, 0x40000000⟩, ⟨"FFT", 0xFC00F800, 0x44000000⟩, ⟨"REAL", 0xFC00F800, 0x48000000⟩,
   ⟨"IMAG", 0xFC00F800, 0x4C000000⟩]

/-- The 3 rows of format H. -/
def commandRows : List OpcodeRow :=
  [⟨"CONSTRUCT", 0xFFFFFFFF, 0x00000001⟩, ⟨"TRANSFORM", 0xFFFFFFFF, 0x00000002⟩,
   ⟨"DESTROY", 0xFFFFFFFF, 0x00000003⟩]

/-- The table's name of an instruction. -/
def Instr.mnemonic : Instr → String
  | .done => "DONE"
  | .copy .. => "COPY"
  | .add .. => "ADD"
  | .mul .. => "MUL"
  | .sqrt .. => "SQRT"
  | .sqr .. => "SQR"
  | .winmul .. => "WINMUL"
  | .cmag .. => "CMAG"
  | .pnorm .. => "PNORM"
  | .logc .. => "LOGC"
  | .pack .. => "PACK"
  | .fft .. => "FFT"
  | .real .. => "REAL"
  | .imag .. => "IMAG"
  | .construct => "CONSTRUCT"
  | .transform => "TRANSFORM"
  | .destroy => "DESTROY"

/-! ### The normative micro-program (R183) -/

/-- The micro-program of R183 for any N, as micro-ops; its words differ from the reference only in `len`. -/
def normativeProgram (n : Nat) : List Instr :=
  [.copy .work .input n, .winmul .work .work n, .pack .fin .work n, .fft .fout .fin n,
   .real .re .fout (n / 2 + 1), .imag .im .fout (n / 2 + 1), .cmag .acc .re .im (n / 2 + 1),
   .pnorm .acc .acc (n / 2 + 1), .logc .out .acc (n / 2 + 1), .done]

/-- The words of the normative micro-program for any N. -/
def normativeUrom (n : Nat) : List Word := (normativeProgram n).map encode

/-! ### Assembler syntax and pseudo-instructions (R109, R110) -/

/-- The name of a buffer in the assembler syntax (R109, R22). -/
def BufId.asm : BufId → String
  | .noBuf => "0"
  | .input => "IN"
  | .work => "WORK"
  | .re => "RE"
  | .im => "IM"
  | .acc => "ACC"
  | .out => "OUT"
  | .hann => "HANN"
  | .pcoef => "PCOEF"
  | .fin => "FIN"
  | .fout => "FOUT"
  | .reserved k => toString (11 + k.val)

/-- `MNEMONIC dst, sa[, sb], len`; DONE has no operands, a command is the host action `CMD <name>` (R109). -/
def Instr.asm : Instr → String
  | .done => "DONE"
  | .construct => "CMD CONSTRUCT"
  | .transform => "CMD TRANSFORM"
  | .destroy => "CMD DESTROY"
  | i@(.copy d a l) | i@(.sqrt d a l) | i@(.sqr d a l) | i@(.winmul d a l) | i@(.pnorm d a l) | i@(.logc d a l)
  | i@(.pack d a l) | i@(.fft d a l) | i@(.real d a l) | i@(.imag d a l) =>
    i.mnemonic ++ " " ++ d.asm ++ ", " ++ a.asm ++ ", " ++ toString l
  | i@(.add d a b l) | i@(.mul d a b l) | i@(.cmag d a b l) =>
    i.mnemonic ++ " " ++ d.asm ++ ", " ++ a.asm ++ ", " ++ b.asm ++ ", " ++ toString l

/-- `WINDOW d, a, len` (R110). -/
def pseudoWindow (d a : BufId) (len : Nat) : List Instr := [.mul d a .hann len]

/-- `MAGNITUDE d, re, im, len` (R110). -/
def pseudoMagnitude (d x y : BufId) (len : Nat) : List Instr :=
  [.sqr x x len, .sqr y y len, .add d x y len, .sqrt d d len]

/-- `POWER d, a, len` (R110). -/
def pseudoPower (d a : BufId) (len : Nat) : List Instr := [.sqr d a len, .mul d d .pcoef len]

/-! ### The host's view of the decoder -/

/-- The instruction this decoder reads from an opcode-table word of `nbits` bits: the words 1, 2, 3 are the commands of
format H; every other word is read as a micro-op. The two formats are kept apart by where a word stands (`CMD` or
`UROM`), and the table gives no word to both. -/
def decodeTableWord (nbits w : Nat) : Option Instr :=
  if nbits ≤ 32 ∧ w < 2 ^ nbits then
    match decodeCommand (BitVec.ofNat 32 w) with
    | .ok i => some i
    | .error _ =>
      match decodeMicroOp (BitVec.ofNat 32 w) with
      | .ok i => some i
      | .error _ => none
  else none

end Sys2Proof
end

