-- ==== Sys2Proof/Machine/Operands.lean ====
section
/-!
DEFINITION. Operands: what a buffer id selects, and the legality check of a micro-op in the order of 30_encoding.md R108
(R95, R98, R104 to R107), and the check of a whole micro-program (44_pipeline_fsm.md R192).
-/

namespace Sys2Proof.Machine

/-! ### Buffers by name (R22) -/

/-- The cells of a real buffer. -/
def State.realBuf (s : State) : BufId → Buffer F32
  | .input => s.inp
  | .work => s.work
  | .re => s.re
  | .im => s.im
  | .acc => s.acc
  | .out => s.out
  | .hann => s.hann
  | .pcoef => s.pcoef
  | .noBuf | .fin | .fout | .reserved _ => []

/-- The cells of a complex buffer. -/
def State.cplxBuf (s : State) : BufId → Buffer C32
  | .fin => s.fin
  | .fout => s.fout
  | .noBuf | .input | .work | .re | .im | .acc | .out | .hann | .pcoef | .reserved _ => []

/-- Replacing the cells of a real buffer. -/
def State.setReal (s : State) (b : BufId) (c : Buffer F32) : State :=
  match b with
  | .input => { s with inp := c }
  | .work => { s with work := c }
  | .re => { s with re := c }
  | .im => { s with im := c }
  | .acc => { s with acc := c }
  | .out => { s with out := c }
  | .hann => { s with hann := c }
  | .pcoef => { s with pcoef := c }
  | .noBuf | .fin | .fout | .reserved _ => s

/-- Replacing the cells of a complex buffer. -/
def State.setCplx (s : State) (b : BufId) (c : Buffer C32) : State :=
  match b with
  | .fin => { s with fin := c }
  | .fout => { s with fout := c }
  | .noBuf | .input | .work | .re | .im | .acc | .out | .hann | .pcoef | .reserved _ => s

/-! ### The legality check (R108) -/

/-- What a row of R95 asks of an operand field. -/
inductive OperandClass where
  | real
  | realW
  | complex
  | exactly (b : BufId)
deriving DecidableEq, Repr

/-- Whether a buffer is of the class (R95, R105, R107). -/
def OperandClass.admits : OperandClass → BufId → Bool
  | .real, b => decide (1 ≤ b.toBits.toNat ∧ b.toBits.toNat ≤ 8)
  | .realW, b => decide (2 ≤ b.toBits.toNat ∧ b.toBits.toNat ≤ 6)
  | .complex, b => decide (b.toBits.toNat = 9 ∨ b.toBits.toNat = 10)
  | .exactly c, b => decide (b = c)

/-- Step 3 of R108: id 0 or a reserved id (R104). -/
def missingBuf (b : BufId) : Bool := decide (b.toBits.toNat = 0 ∨ 11 ≤ b.toBits.toNat)

/-- The used operand fields of each micro-op, with their classes (R95). -/
def operandFields : Instr → List (BufId × OperandClass)
  | .done | .construct | .transform | .destroy => []
  | .copy dst sa _ | .sqrt dst sa _ | .sqr dst sa _ | .logc dst sa _ | .winmul dst sa _ | .pnorm dst sa _ =>
    [(dst, .realW), (sa, .real)]
  | .add dst sa sb _ | .mul dst sa sb _ | .cmag dst sa sb _ => [(dst, .realW), (sa, .real), (sb, .real)]
  | .pack dst sa _ => [(dst, .complex), (sa, .real)]
  | .fft dst sa _ => [(dst, .exactly .fout), (sa, .exactly .fin)]
  | .real dst sa _ | .imag dst sa _ => [(dst, .realW), (sa, .complex)]

/-- The buffer a micro-op reads without naming it (R166, R170). -/
def impliedBufs : Instr → List BufId
  | .winmul .. => [.hann]
  | .pnorm .. => [.pcoef]
  | .done | .copy .. | .add .. | .mul .. | .sqrt .. | .sqr .. | .cmag .. | .logc .. | .pack .. | .fft .. | .real ..
  | .imag .. | .construct | .transform | .destroy => []

/-- Step 5 of R108: the lane count (R106; for `FFT`, R107). -/
def badLen (p : Params) (i : Instr) : Bool :=
  let bufs := (operandFields i).map (·.1) ++ impliedBufs i
  match i with
  | .done | .construct | .transform | .destroy => false
  | .fft _ _ len => decide (len ≠ p.n)
  | .copy _ _ len | .sqrt _ _ len | .sqr _ _ len | .winmul _ _ len | .pnorm _ _ len | .logc _ _ len
  | .pack _ _ len | .real _ _ len | .imag _ _ len | .add _ _ _ len | .mul _ _ _ len | .cmag _ _ _ len =>
    decide (len = 0) || bufs.any fun b => decide (p.bufLen b < len)

/-- Steps 3 to 5 of R108, the first failing step giving the fault; `none` is step 6, the micro-op is legal. -/
def legalityFault (p : Params) (i : Instr) : Option ErrCode :=
  if (operandFields i).any fun u => missingBuf u.1 then some .illegalMicroOp
  else if (operandFields i).any fun u => !u.2.admits u.1 then some .operandFault
  else if badLen p i then some .operandFault
  else none

/-- The whole check of R108 on a fetched word: one legal micro-op, or one of the two faults (R103). -/
def checkWord (p : Params) (w : Word) : Except ErrCode Instr :=
  match decodeMicroOp w with
  | .error _ => .error .illegalMicroOp
  | .ok i =>
    match legalityFault p i with
    | some e => .error e
    | none => .ok i

/-- A word that passes the check of R108. -/
def legalWord (p : Params) (w : Word) : Bool :=
  match checkWord p w with
  | .error _ => false
  | .ok _ => true

/-- The check of a whole micro-program (R192): every word legal by R108, and the last word `DONE`. It is a check one may
make; the machine does not make it, and a program that fails it runs until its first fault. -/
def checkProgram (p : Params) : Bool :=
  p.urom.all (legalWord p) && decide (p.urom.getLast? = some (encode .done))

end Sys2Proof.Machine
end

