-- ==== Sys2Proof/Machine/Ops.lean ====
section
/-!
DEFINITION. The shared operations over buffers and state: reading and writing lanes (40_vector_kernels.md R122, R135;
20_memory.md R72), the end of a micro-op (10_state.md R28), and the entry of a fault (60_exceptions.md R227), which is
this core's only form of taking an exception. There is no return from one (R230): the next acceptance clears `ERR`.
-/

namespace Sys2Proof.Machine

/-! ### Cells and lanes -/

/-- Element `i` of a buffer; outside the buffer nothing is held (R72). -/
def cellAt {α : Type} (b : Buffer α) (i : Nat) : Cell α := b.getD i none

/-- `B[i] <- v` (R12). -/
def setCell {α : Type} (b : Buffer α) (i : Nat) (v : α) : Buffer α := b.set i (some v)

/-- `B[i] <- none` for every element (R12). -/
def clearBuf {α : Type} (b : Buffer α) : Buffer α := List.replicate b.length none

/-- Elements `0 .. len-1`, if each of them holds a value (R24). -/
def readLanes {α : Type} : Buffer α → Nat → Option (List α)
  | _, 0 => some []
  | [], _ + 1 => none
  | none :: _, _ + 1 => none
  | some x :: b, n + 1 => (readLanes b n).map (x :: ·)

/-- Writing values to elements `0, 1, …`; the elements behind them stay (R122). -/
def writeLanes {α : Type} : List α → Buffer α → Buffer α
  | [], b => b
  | _ :: _, [] => []
  | v :: vs, _ :: b => some v :: writeLanes vs b

/-- One lane function applied at every index to one source. -/
def lanes1 {α β : Type} (f : Nat → α → β) (xs : List α) : List β := xs.mapIdx f

/-- One lane function applied at every index to two sources. -/
def lanes2 {α β γ : Type} (f : Nat → α → β → γ) (xs : List α) (ys : List β) : List γ :=
  (xs.zip ys).mapIdx fun i p => f i p.1 p.2

namespace State

/-! ### The end of a micro-op, and the entry of a fault -/

/-- A completing micro-op increments `upc` (R28); the draw counter moves on so that the next step's free values are
fresh (log entry 5). -/
def retire (s : State) : State := { s with upc := s.upc + 1, draws := s.draws + 1 }

/-- Entry of a sequencer fault (R227) and of `TransformFailure` (R155): the command ends with `ERR` set. `upc`, `life`
and every buffer stay. -/
def raise (s : State) (e : ErrCode) : State := { s with err := e, done := false, busy := false, cmdL := none }

/-- The step template (R135): the check first, and a fault stops there with nothing written. -/
def checked (s : State) (i : Instr) (body : Result) : Result :=
  match legalityFault s.params i with
  | some e => .next (s.raise e)
  | none => body

/-! ### The lanes of a micro-op -/

/-- The source lanes of a micro-op, all read before any is written (R122); an unwritten read faults (R24). -/
def withLanes {α : Type} (src : Buffer α) (b : BufId) (len : Nat) (body : List α → Result) : Result :=
  match readLanes src len with
  | none => .fault (.unwrittenRead b)
  | some xs => body xs

/-- The end of a micro-op with a real destination. -/
def storeReal (s : State) (dst : BufId) (vs : List F32) : State :=
  (s.setReal dst (writeLanes vs (s.realBuf dst))).retire

/-- The end of a micro-op with a complex destination. -/
def storeCplx (s : State) (dst : BufId) (vs : List C32) : State :=
  (s.setCplx dst (writeLanes vs (s.cplxBuf dst))).retire

/-- A micro-op of one real source and a real destination. -/
def unary (s : State) (dst sa : BufId) (len : Nat) (f : Nat → F32 → F32) : Result :=
  withLanes (s.realBuf sa) sa len fun xs => .next (s.storeReal dst (lanes1 f xs))

/-- A micro-op of two real sources and a real destination. -/
def binary (s : State) (dst sa sb : BufId) (len : Nat) (f : Nat → F32 → F32 → F32) : Result :=
  withLanes (s.realBuf sa) sa len fun xs =>
    withLanes (s.realBuf sb) sb len fun ys => .next (s.storeReal dst (lanes2 f xs ys))

/-- A micro-op from a real to a complex buffer. -/
def toComplex (s : State) (dst sa : BufId) (len : Nat) (f : F32 → C32) : Result :=
  withLanes (s.realBuf sa) sa len fun xs => .next (s.storeCplx dst (lanes1 (fun _ x => f x) xs))

/-- A micro-op from a complex to a real buffer. -/
def fromComplex (s : State) (dst sa : BufId) (len : Nat) (f : C32 → F32) : Result :=
  withLanes (s.cplxBuf sa) sa len fun xs => .next (s.storeReal dst (lanes1 (fun _ x => f x) xs))

/-- The quiet NaN of operation `k` of lane `i` of the step this state takes. -/
def nan (s : State) (i k : Nat) : F32 := freshNaN s.draws i k

/-- Every instance-owned buffer holds no value and there is no context (R40, R206, R211). -/
def releaseAll (s : State) : State :=
  { s with
    work := clearBuf s.work
    re := clearBuf s.re
    im := clearBuf s.im
    acc := clearBuf s.acc
    fin := clearBuf s.fin
    fout := clearBuf s.fout
    hann := clearBuf s.hann
    pcoef := clearBuf s.pcoef
    ctx := none }

/-- The reset input (R39, R250). What is outside the core stays: its parameters, the turns to come, the outputs last
seen, and the draw counter, so that draws after a reset are fresh (U22, log entry 12). -/
def resetInput (s : State) : State :=
  { State.powerOn s.params with agenda := s.agenda, reply := s.reply, port := s.port, draws := s.draws }

end State

end Sys2Proof.Machine
end

