-- ==== Sys2Proof/Machine/Commands.lean ====
section
/-!
DEFINITION. The host commands CONSTRUCT, TRANSFORM, DESTROY (45_host_commands.md R200 to R214). A command acts twice:
when its word is stored to `CMD` (R201, R202) and, for CONSTRUCT and DESTROY, in the sequencer's completion step
(R205, R206, R211), which is enabled exactly when `cmd_l` holds that command (log entry 13).
-/

namespace Sys2Proof.Machine

/-- The only life state in which a command is valid (R202). -/
def lifeFor : Command → Life
  | .construct => .uninitialized
  | .transform => .ready
  | .destroy => .ready

namespace State

/-- A `CMD` store of a decoded command: busy, then life state, then acceptance (R201). -/
def issue (s : State) (c : Command) : State :=
  if s.busy then s.overrun
  else if s.life = lifeFor c then s.accept c
  else s.reject .illegalState

/-- CONSTRUCT, success (R205): the window table is built, the context kept, and the instance is `Ready`. -/
def constructed (s : State) (c : Ctx) : State :=
  ({ s with
    hann := s.params.hannTab.map some
    pcoef := List.replicate s.params.n (some (pcoefVal s.params.n))
    ctx := some c
    life := .ready } : State).succeed

/-- CONSTRUCT, failure (R206): whatever was acquired is given back. -/
def constructFailed (s : State) : State :=
  ({ s.releaseAll with life := .uninitialized } : State).raise .resourceExhaustion

/-- The completion step of CONSTRUCT for given draws: allocation first, and the engine is asked only if it succeeds
(R205, R206). -/
def completeConstruct (s : State) (allocOk : Bool) (answer : Option Ctx) : State :=
  let s' := { s with draws := s.draws + 1 }
  if allocOk then
    let asked := { s' with port := some (.init s.params.n) }
    match answer with
    | some c => asked.constructed c
    | none => asked.constructFailed
  else s'.constructFailed

/-- The completion step of DESTROY (R211): the context is released, then everything the instance owns. -/
def completeDestroy (s : State) : State :=
  let asked : State :=
    match s.ctx with
    | some c => { s with port := some (.release c) }
    | none => s
  ({ asked.releaseAll with life := .destroyed } : State).succeed

end State

/-- `CONSTRUCT`: its completion step when it is in progress (R205, R206), else its `CMD` store (R201). -/
def execConstruct (s : State) : Result :=
  .next (if s.cmdL = some .construct then
      s.completeConstruct (Config.allocOk s.draws) (Config.fftInit s.draws s.params.n)
    else s.issue .construct)

/-- `TRANSFORM`: its `CMD` store; acceptance also restarts the micro-program and latches the log mode (R208). -/
def execTransform (s : State) : Result :=
  .next (if s.busy = false ∧ s.life = .ready then
      { s.issue .transform with upc := 0, logmodeL := s.logmode }
    else s.issue .transform)

/-- `DESTROY`: its completion step when it is in progress (R211), else its `CMD` store (R201). -/
def execDestroy (s : State) : Result :=
  .next (if s.cmdL = some .destroy then s.completeDestroy else s.issue .destroy)

end Sys2Proof.Machine
end

