-- ==== Sys2Proof/Machine/CoreKernels.lean ====
section
/-!
DEFINITION. The core kernels: WINMUL, CMAG, PNORM, LOGC (43_core_kernels.md R165 to R178).
-/

namespace Sys2Proof.Machine

/-- `WINMUL` (R166): the coefficient buffer is `HANN`. -/
def execWinmul (dst sa : BufId) (len : Nat) (s : State) : Result :=
  s.checked (.winmul dst sa len) (s.binary dst sa .hann len fun i x c => F32.fmul (s.nan i 0) x c)

/-- `CMAG` (R168, R178). -/
def execCmag (dst sa sb : BufId) (len : Nat) (s : State) : Result :=
  s.checked (.cmag dst sa sb len) (s.binary dst sa sb len fun i x y => cmagLane s.params.powerPath (s.nan i) x y)

/-- `PNORM` (R170, R178): the coefficient buffer is `PCOEF`; the Nyquist lane is no special case (R177). -/
def execPnorm (dst sa : BufId) (len : Nat) (s : State) : Result :=
  s.checked (.pnorm dst sa len) (s.binary dst sa .pcoef len fun i x c => pnormLane s.params.powerPath (s.nan i) x c)

/-- `LOGC` (R173, R174): the mode is the latched bit. -/
def execLogc (dst sa : BufId) (len : Nat) (s : State) : Result :=
  s.checked (.logc dst sa len)
    (s.unary dst sa len fun i x =>
      logcLane Config.log10f Config.lnf s.params.clampNaN s.logmodeL (s.nan i 0) x)

end Sys2Proof.Machine
end

