-- ==== Sys2Proof/Machine/FftPort.lean ====
section
/-!
DEFINITION. The micro-ops around the FFT engine: PACK, FFT, REAL, IMAG (42_fft_port.md R151, R154, R155, R160, R161).
-/

namespace Sys2Proof.Machine

/-- `PACK` (R151): the pattern as real part, +0 as imaginary part. -/
def execPack (dst sa : BufId) (len : Nat) (s : State) : Result :=
  s.checked (.pack dst sa len) (s.toComplex dst sa len fun x => { re := x, im := 0 })

/-- `TransformFailure` (R155): `FOUT` holds no value afterwards, everything else as at any fault entry. -/
def State.transformFailure (s : State) : State :=
  { s.raise .transformFailure with fout := clearBuf s.fout, draws := s.draws + 1 }

/-- What an engine answer does: `ok` with the elements `y`, or `error` (R154). -/
def State.forwardAnswer (s : State) (ok : Bool) (y : Nat → C32) : State :=
  if ok then s.storeCplx .fout ((List.range s.params.n).map y) else s.transformFailure

/-- `FFT` (R154): the request carries the instance's context and all of `FIN` (R156, R158). -/
def execFft (dst sa : BufId) (len : Nat) (s : State) : Result :=
  s.checked (.fft dst sa len)
    (State.withLanes s.fin .fin s.params.n fun x =>
      match s.ctx with
      | none => .fault .noContext
      | some c =>
        .next (({ s with port := some (.forward c x) } : State).forwardAnswer (Config.fftForwardOk s.draws)
          (Config.fftValue c x)))

/-- `REAL` (R160): the real parts, bits unchanged. -/
def execReal (dst sa : BufId) (len : Nat) (s : State) : Result :=
  s.checked (.real dst sa len) (s.fromComplex dst sa len C32.re)

/-- `IMAG` (R161): the imaginary parts, bits unchanged. -/
def execImag (dst sa : BufId) (len : Nat) (s : State) : Result :=
  s.checked (.imag dst sa len) (s.fromComplex dst sa len C32.im)

end Sys2Proof.Machine
end

