-- ==== Sys2Proof/Machine/Pipeline.lean ====
section
/-!
DEFINITION. DONE, the end of the micro-program (44_pipeline_fsm.md R187).
-/

namespace Sys2Proof.Machine

/-- `DONE` (R187): the command ends with success; `upc` and every buffer stay. -/
def execDone (s : State) : Result := .next s.succeed

end Sys2Proof.Machine
end

