-- ==== Sys2Proof/Machine/VectorKernels.lean ====
section
/-!
DEFINITION. The VectorKernels: COPY, ADD, MUL, SQRT, SQR (40_vector_kernels.md R127 to R131).
-/

namespace Sys2Proof.Machine

/-- `COPY` (R127): the 32-bit pattern, unchanged. -/
def execCopy (dst sa : BufId) (len : Nat) (s : State) : Result :=
  s.checked (.copy dst sa len) (s.unary dst sa len fun _ x => x)

/-- `ADD` (R128). -/
def execAdd (dst sa sb : BufId) (len : Nat) (s : State) : Result :=
  s.checked (.add dst sa sb len) (s.binary dst sa sb len fun i x y => F32.fadd (s.nan i 0) x y)

/-- `MUL` (R129). -/
def execMul (dst sa sb : BufId) (len : Nat) (s : State) : Result :=
  s.checked (.mul dst sa sb len) (s.binary dst sa sb len fun i x y => F32.fmul (s.nan i 0) x y)

/-- `SQRT` (R130). -/
def execSqrt (dst sa : BufId) (len : Nat) (s : State) : Result :=
  s.checked (.sqrt dst sa len) (s.unary dst sa len fun i x => F32.fsqrt (s.nan i 0) x)

/-- `SQR` (R131). -/
def execSqr (dst sa : BufId) (len : Nat) (s : State) : Result :=
  s.checked (.sqr dst sa len) (s.unary dst sa len fun i x => F32.fmul (s.nan i 0) x x)

end Sys2Proof.Machine
end

