-- ==== Sys2Proof/Machine/Dispatch.lean ====
section
/-!
DEFINITION. One arm for each instruction.
-/

namespace Sys2Proof.Machine

def exec (i : Instr) (s : State) : Host.Outcome State Fault Refusal :=
  match i with
  | .done => Sys2Proof.Machine.execDone s
  | .copy dst sa len => Sys2Proof.Machine.execCopy dst sa len s
  | .add dst sa sb len => Sys2Proof.Machine.execAdd dst sa sb len s
  | .mul dst sa sb len => Sys2Proof.Machine.execMul dst sa sb len s
  | .sqrt dst sa len => Sys2Proof.Machine.execSqrt dst sa len s
  | .sqr dst sa len => Sys2Proof.Machine.execSqr dst sa len s
  | .winmul dst sa len => Sys2Proof.Machine.execWinmul dst sa len s
  | .cmag dst sa sb len => Sys2Proof.Machine.execCmag dst sa sb len s
  | .pnorm dst sa len => Sys2Proof.Machine.execPnorm dst sa len s
  | .logc dst sa len => Sys2Proof.Machine.execLogc dst sa len s
  | .pack dst sa len => Sys2Proof.Machine.execPack dst sa len s
  | .fft dst sa len => Sys2Proof.Machine.execFft dst sa len s
  | .real dst sa len => Sys2Proof.Machine.execReal dst sa len s
  | .imag dst sa len => Sys2Proof.Machine.execImag dst sa len s
  | .construct => Sys2Proof.Machine.execConstruct s
  | .transform => Sys2Proof.Machine.execTransform s
  | .destroy => Sys2Proof.Machine.execDestroy s

end Sys2Proof.Machine
end

