-- ==== Sys2Proof/Machine/HostBus.lean ====
section
/-!
DEFINITION. The host port: the address map and the host load and store (20_memory.md R61 to R67; 10_state.md R31 to
R35, R43), and the `CMD` store (45_host_commands.md R201).
-/

namespace Sys2Proof.Machine

/-- A location of the block (R67). -/
inductive Loc where
  | id
  | cmd
  | status
  | ctrl
  | nframe
  | nbins
  | inElem (n : Nat)
  | outElem (k : Nat)
deriving DecidableEq, Repr

/-- The location at a byte offset (R67); `none` where the map says bus error (R35). -/
def locAtOffset (p : Params) (off : Nat) : Option Loc :=
  if off = 0x0000 then some .id
  else if off = 0x0004 then some .cmd
  else if off = 0x0008 then some .status
  else if off = 0x000C then some .ctrl
  else if off = 0x0010 then some .nframe
  else if off = 0x0014 then some .nbins
  else if 0x1000 ≤ off ∧ off < 0x1000 + 4 * p.n then some (.inElem ((off - 0x1000) / 4))
  else if 0x3000 ≤ off ∧ off < 0x3000 + 4 * p.nb then some (.outElem ((off - 0x3000) / 4))
  else none

/-- The location an access reaches: 32 bits wide, aligned, inside the block and not reserved (R62, R64, R65); `none`
is the bus error of R66. -/
def locate (p : Params) (addr width : Nat) : Option Loc :=
  if width = 4 ∧ p.base ≤ addr ∧ addr - p.base < 0x4000 ∧ (addr - p.base) % 4 = 0 then
    locAtOffset p (addr - p.base)
  else none

/-- The byte of a host word at byte position `j` of the word: little-endian (R61). -/
def busByte (w : Word) (j : Nat) : Byte := w.extractLsb' (8 * j) 8

/-- A bus answer. -/
def State.answer (s : State) (r : Reply) : State := { s with reply := some r }

/-- A load of a buffer element; an unwritten read faults (R24). -/
def State.loadCell (s : State) (b : BufId) (c : Cell F32) : Result :=
  match c with
  | none => .fault (.unwrittenRead b)
  | some v => .next (s.answer (.data v))

/-- The host load by location (R62); no state of the core changes. -/
def loadLoc (loc : Loc) (s : State) : Result :=
  match loc with
  | .id => .next (s.answer (.data Config.idValue))
  | .cmd => .next (s.answer (.data 0))
  | .status => .next (s.answer (.data s.statusWord))
  | .ctrl => .next (s.answer (.data s.ctrlWord))
  | .nframe => .next (s.answer (.data (BitVec.ofNat 32 s.params.n)))
  | .nbins => .next (s.answer (.data (BitVec.ofNat 32 s.params.nb)))
  | .inElem n => s.loadCell .input (cellAt s.inp n)
  | .outElem k => s.loadCell .out (cellAt s.out k)

/-- A store of `v` to `CMD` (R201): busy, then decode, then the command's own judgement. -/
def storeCommand (v : Word) (s : State) : Result :=
  if s.busy then .next s.overrun
  else
    match decodeCommand v with
    | .error _ => .next (s.reject .illegalCommand)
    | .ok i => exec i s

/-- The host store by location (R63); stores to read-only locations are ignored. -/
def storeLoc (loc : Loc) (v : Word) (s : State) : Result :=
  match loc with
  | .cmd => storeCommand v s
  | .ctrl => .next (s.storeCtrl v)
  | .inElem n => .next { s with inp := setCell s.inp n v }
  | .id | .status | .nframe | .nbins | .outElem _ => .next s

/-- One host access (R62, R63); a bus error changes no state of the core (R66). -/
def hostAccess (a : Access) (s : State) : Result :=
  match a with
  | .load addr width =>
    match locate s.params addr width with
    | none => .next (s.answer .busError)
    | some loc => loadLoc loc s
  | .store addr width v =>
    match locate s.params addr width with
    | none => .next (s.answer .busError)
    | some loc => storeLoc loc v (s.answer .stored)

/-! ### The host actions of the assembler syntax (30_encoding.md R109) -/

/-- `CMD <command>`: a store of its word to `BASE + 0x0004`. -/
def cmdAccess (p : Params) (v : Word) : Access := .store (p.base + 0x0004) 4 v

/-- `ST CTRL, w`. -/
def stCtrl (p : Params) (v : Word) : Access := .store (p.base + 0x000C) 4 v

/-- `ST IN[n], w`. -/
def stIn (p : Params) (n : Nat) (v : Word) : Access := .store (p.base + 0x1000 + 4 * n) 4 v

/-- `LD STATUS`. -/
def ldStatus (p : Params) : Access := .load (p.base + 0x0008) 4

/-- `LD IN[n]`. -/
def ldIn (p : Params) (n : Nat) : Access := .load (p.base + 0x1000 + 4 * n) 4

/-- `LD OUT[k]`. -/
def ldOut (p : Params) (k : Nat) : Access := .load (p.base + 0x3000 + 4 * k) 4

end Sys2Proof.Machine
end

