-- ==== Sys2Proof/Machine/Sequencer.lean ====
section
/-!
DEFINITION. The sequencer's step (44_pipeline_fsm.md R181, R182): fetch, check and execute one micro-op while a
TRANSFORM is in progress, or complete a CONSTRUCT or a DESTROY.
-/

namespace Sys2Proof.Machine

/-- The fetch `UROM[upc]` (R80, R181); `none` when `upc ≥ ULEN`. -/
def fetch (s : State) : Option Word := s.params.urom[s.upc]?

/-- One micro-op: a fetch out of range and a word that is no instruction raise `IllegalMicroOp` (R182, R108 steps 1
and 2); the rest of the check and the effect are the instruction's own. -/
def microStep (s : State) : Result :=
  match fetch s with
  | none => .next (s.raise .illegalMicroOp)
  | some w =>
    match decodeMicroOp w with
    | .error _ => .next (s.raise .illegalMicroOp)
    | .ok i => exec i s

/-- One sequencer step; with no command in progress there is nothing to do (R181, log entry 9). -/
def seqStep (s : State) : Result :=
  match s.cmdL with
  | none => .next s
  | some .construct => exec .construct s
  | some .transform => microStep s
  | some .destroy => exec .destroy s

/-- The micro-program with word `w` at index `i`, padded with zero words up to it. -/
def placeWord : List Word → Nat → Word → List Word
  | [], 0, w => [w]
  | _ :: l, 0, w => w :: l
  | [], i + 1, w => 0 :: placeWord [] i w
  | x :: l, i + 1, w => x :: placeWord l i w

/-- A state whose very next step is the `CMD` store of `w`: no command in progress, and the host's turn. -/
def withCommandWord (s : State) (w : Word) : State :=
  { s with busy := false, cmdL := none, agenda := .host (.store (s.params.base + 4) 4 w) :: s.agenda }

/-- A state whose very next step executes the micro-op word `w`: a TRANSFORM in progress, `w` at `UROM[upc]`, and the
sequencer's turn. -/
def withMicroOpWord (s : State) (w : Word) : State :=
  { s with
    params := { s.params with urom := placeWord s.params.urom s.upc w }
    busy := true
    cmdL := some .transform
    agenda := .sequencer :: s.agenda }

end Sys2Proof.Machine
end

