-- ==== Sys2Proof/Machine/Step.lean ====
section
/-!
DEFINITION. The step of the machine: one turn of one agent (20_memory.md R75). The agenda says whose turn it is; when it
is empty the sequencer steps (70_reset_and_hazards.md R263, log entry 1).
-/

namespace Sys2Proof.Machine

/-- One atomic step. -/
def step (s : State) : Host.Outcome State Fault Refusal :=
  match s.agenda with
  | [] => seqStep s
  | .sequencer :: rest => seqStep { s with agenda := rest }
  | .host a :: rest => hostAccess a { s with agenda := rest }
  | .reset :: rest => .next (State.resetInput { s with agenda := rest })

/-- `s` made ready so that its next step runs the instruction with the table word `w` of `nbits` bits: a command word is
the host's next `CMD` store, every other word is the next micro-op (log entry 11). -/
def State.withFetchWord (s : State) (nbits w : Nat) : State :=
  let word := BitVec.ofNat 32 (w % 2 ^ nbits)
  match decodeCommand word with
  | .ok _ => withCommandWord s word
  | .error _ => withMicroOpWord s word

end Sys2Proof.Machine
end

