-- ==== Sys2Proof/Safety.lean ====
section
/-!
DEFINITION. The terms claims are made in: the real value of a binary32 pattern and correct rounding (R123, R133), the
premises the spec names for claims (R141, R153, R172), the canonical form of the buffers, the invariant of a run (R26,
R36, R37, R45), the frame of a micro-op (R137), and the host protocol (R256).
-/

namespace Sys2Proof

/-! ### Values and rounding -/

/-- The value of a finite pattern, from the table of R123. -/
def F32.value (a : F32) : ℚ :=
  (if a.sign then -1 else 1) *
    (if a.expo = 0 then (a.frac : ℚ) * (2 : ℚ) ^ (-149 : ℤ)
      else (2 ^ 23 + (a.frac : ℚ)) * (2 : ℚ) ^ ((a.expo : ℤ) - 150))

/-- `r` is the real number `x` rounded once to binary32, to nearest, ties to even (R12, R133). Below the overflow
threshold (halfway from the largest finite value to 2¹²⁸) `r` is a finite value with none nearer, and with an even
fraction if another is as near; from there on it is the infinity of that sign. -/
def F32.RoundsTo (x : ℝ) (r : F32) : Prop :=
  if |x| < 2 ^ 128 - 2 ^ 103 then
    r.isFinite = true ∧
      ∀ y : F32, y.isFinite = true →
        |(r.value : ℝ) - x| ≤ |(y.value : ℝ) - x| ∧
          (y.value ≠ r.value → |(y.value : ℝ) - x| = |(r.value : ℝ) - x| → r.frac % 2 = 0)
  else r.isInf = true ∧ (r.sign = true ↔ x < 0)

/-- A quiet NaN (R132): `e = 255` and bit 22 set. -/
def F32.isQuietNaN (a : F32) : Bool := a.expo == 255 && a.getLsbD 22

/-- Two patterns are the same, or both are NaNs: equality up to the payload of a NaN (R131, R132). -/
def F32.SameUpToNaN (a b : F32) : Prop := a = b ∨ (a.isNaN = true ∧ b.isNaN = true)

/-! ### Premises the spec names: none is part of the model, a claim that needs one says so (log entries 6, 7, 16) -/

/-- The window table holds the exact Hann coefficients, each rounded once (R141). -/
def Params.HannRounded (p : Params) : Prop :=
  ∀ n < p.n, F32.RoundsTo (1 / 2 * (1 - Real.cos (2 * Real.pi * n / (p.n - 1)))) (p.hannTab.getD n 0)

/-- `LOG_NAN` (R172). -/
def LogNaN : Prop := ∀ p : F32, p.isNaN = true → (Config.log10f p).isNaN = true ∧ (Config.lnf p).isNaN = true

/-- `LOG_INF` (R172). -/
def LogInf : Prop := Config.log10f 0x7F800000 = 0x7F800000 ∧ Config.lnf 0x7F800000 = 0x7F800000

/-- `LOG_ONE` (R172). -/
def LogOne : Prop := Config.log10f 0x3F800000 = 0x00000000 ∧ Config.lnf 0x3F800000 = 0x00000000

/-- `LOG_CR` (R172), on the finite arguments from `FLOOR` on. -/
def LogCorrectlyRounded : Prop :=
  ∀ p : F32, p.isFinite = true → Config.floorValue.value ≤ p.value →
    F32.RoundsTo (Real.logb 10 p.value) (Config.log10f p) ∧ F32.RoundsTo (Real.log p.value) (Config.lnf p)

/-- `FFT_ZERO` (R153) for frame length `n`: the engine's answer to an all-zero input has powers below `FLOOR`. -/
def FftZero (n : Nat) (path : PowerPath) : Prop :=
  ∀ (c : Ctx) (x : List C32) (nan nan' : Nat → F32),
    x.length = n → (∀ e ∈ x, e.re.mag = 0 ∧ e.im.mag = 0) → ∀ k ≤ n / 2,
      let y := Config.fftValue c x k
      F32.flt (pnormLane path nan' (cmagLane path nan y.re y.im) (pcoefVal n)) Config.floorValue = true

/-- `FFT_EXACT` (R153, for test vectors only): every element is the unscaled forward DFT, rounded once. -/
def FftExact (n : Nat) : Prop :=
  ∀ (c : Ctx) (x : List C32), x.length = n → (∀ e ∈ x, e.re.isFinite = true ∧ e.im.isFinite = true) → ∀ k < n,
    let term (f : ℝ → ℝ → ℝ → ℝ → ℝ) (m : Nat) : ℝ :=
      let e := x.getD m default
      let angle := 2 * Real.pi * k * m / n
      f e.re.value e.im.value (Real.cos angle) (Real.sin angle)
    let y := Config.fftValue c x k
    F32.RoundsTo (∑ m ∈ Finset.range n, term (fun re im cos sin => re * cos + im * sin) m) y.re ∧
      F32.RoundsTo (∑ m ∈ Finset.range n, term (fun re im cos sin => im * cos - re * sin) m) y.im

namespace Machine

/-! ### Memory -/

/-- The canonical form of the machine's memory: every buffer has exactly the cells of R22, so that two memories that
hold the same are equal. -/
abbrev Memory.wf (s : State) : Prop :=
  s.inp.length = s.params.n ∧ s.work.length = s.params.n ∧ s.re.length = s.params.nb ∧
  s.im.length = s.params.nb ∧ s.acc.length = s.params.nb ∧ s.out.length = s.params.nb ∧
  s.hann.length = s.params.n ∧ s.pcoef.length = s.params.n ∧ s.fin.length = s.params.n ∧
  s.fout.length = s.params.n

/-- Every element of a buffer holds no value. -/
abbrev Vacant {α : Type} (b : Buffer α) : Prop := ∀ c ∈ b, c.isNone = true

/-- The scratch buffers of the instance hold no value. -/
abbrev ScratchVacant (s : State) : Prop :=
  Vacant s.work ∧ Vacant s.re ∧ Vacant s.im ∧ Vacant s.acc ∧ Vacant s.fin ∧ Vacant s.fout

/-- The constant buffers hold the window table and the power coefficient (R26). -/
abbrev TablesBuilt (s : State) : Prop :=
  s.hann = s.params.hannTab.map some ∧ s.pcoef = List.replicate s.params.n (some (pcoefVal s.params.n))

/-- Elements `0 .. len-1` of a buffer all hold a value. -/
abbrev Written {α : Type} (b : Buffer α) (len : Nat) : Prop := ∀ i < len, (cellAt b i).isSome = true

/-! ### The invariant of a run -/

/-- What every state of a run satisfies (R45, with what the rules make hold beside it). -/
structure State.Inv (s : State) : Prop where
  /-- the parameters are legal (R8, R142, R192) -/
  params : s.params.wf
  /-- every buffer has its length (R22) -/
  memory : Memory.wf s
  /-- R45 item 1 -/
  busy : s.busy = true ↔ s.cmdL ≠ none
  /-- R45 item 2 -/
  done : s.done = true → s.busy = false ∧ s.err = .noError
  /-- R45 item 3, first half -/
  ctx : s.life = .ready ↔ s.ctx ≠ none
  /-- R45 item 3, second half, with the contents of R26 -/
  tables : s.life = .ready → TablesBuilt s
  /-- outside `Ready` the constant buffers hold no value (R39, R40, R206) -/
  noTables : s.life ≠ .ready → Vacant s.hann ∧ Vacant s.pcoef
  /-- outside `Ready` the scratch holds no value (R39, R40, R206) -/
  noScratch : s.life ≠ .ready → ScratchVacant s
  /-- R45 item 4 -/
  transform : s.cmdL = some .transform → s.life = .ready
  /-- CONSTRUCT runs only in `Uninitialized` (R202) -/
  construct : s.cmdL = some .construct → s.life = .uninitialized
  /-- DESTROY runs only in `Ready` (R202) -/
  destroy : s.cmdL = some .destroy → s.life = .ready
  /-- `upc` stays within the micro-program or just behind it (R28, R182) -/
  upc : s.upc ≤ s.params.ulen

/-! ### Frames -/

/-- Everything a micro-op may not touch: parameters, life, flags, registers, latches, context, and what is outside. -/
structure ControlSame (s t : State) : Prop where
  params : t.params = s.params
  life : t.life = s.life
  busy : t.busy = s.busy
  done : t.done = s.done
  ovr : t.ovr = s.ovr
  err : t.err = s.err
  logmode : t.logmode = s.logmode
  logmodeL : t.logmodeL = s.logmodeL
  cmdL : t.cmdL = s.cmdL
  ctx : t.ctx = s.ctx
  agenda : t.agenda = s.agenda
  reply : t.reply = s.reply

/-- Every buffer is unchanged. -/
structure BuffersSame (s t : State) : Prop where
  real : ∀ b, t.realBuf b = s.realBuf b
  cplx : ∀ b, t.cplxBuf b = s.cplxBuf b

/-- The frame of a micro-op that writes `dst[0..len)`: nothing else changes but `upc`, which goes up by one, and the
model's draw counter (R122, R137). -/
structure KernelFrame (s t : State) (dst : BufId) (len : Nat) : Prop where
  control : ControlSame s t
  upc : t.upc = s.upc + 1
  otherReal : ∀ b, b ≠ dst → t.realBuf b = s.realBuf b
  otherCplx : ∀ b, b ≠ dst → t.cplxBuf b = s.cplxBuf b
  beyondReal : ∀ i, len ≤ i → cellAt (t.realBuf dst) i = cellAt (s.realBuf dst) i
  beyondCplx : ∀ i, len ≤ i → cellAt (t.cplxBuf dst) i = cellAt (s.cplxBuf dst) i

/-! ### Turns -/

/-- It is the sequencer's turn: it is next on the agenda, or nothing is. -/
abbrev SequencersTurn (s : State) : Prop := s.agenda.head? = none ∨ s.agenda.head? = some .sequencer

/-- The state the agent whose turn it is acts on. -/
def State.takeTurn (s : State) : State := { s with agenda := s.agenda.tail }

/-- One lane of a micro-op with two real sources, done on its own (R122). -/
def oneLane (dst sa sb : BufId) (f : Nat → F32 → F32 → F32) (s : State) (i : Nat) : Option State :=
  match cellAt (s.realBuf sa) i, cellAt (s.realBuf sb) i with
  | some x, some y => some (s.setReal dst (setCell (s.realBuf dst) i (f i x y)))
  | _, _ => none

/-! ### Runs and the host protocol -/

/-- `k` steps (Host.Core.run of this machine). -/
abbrev runSteps (k : Nat) (s : State) : Result := Host.Core.run ⟨State, Fault, Refusal, step, State.reset⟩ k s

/-- The core without what stands outside it: the turns to come and the last bus answer. -/
def State.inside (s : State) : State := { s with agenda := [], reply := none }

/-- What a run comes to, seen inside the core. -/
def insideOf : Result → Result
  | .next s => .next s.inside
  | .fault f => .fault f
  | .refused r => .refused r

/-- The turns a host that keeps the protocol of R256 allows while a command runs: sequencer steps and STATUS loads. -/
def protocolTurn (p : Params) : Turn → Bool
  | .sequencer => true
  | .host a => decide (a = ldStatus p)
  | .reset => false

/-- How many of the turns are the sequencer's. -/
def sequencerTurns (ts : List Turn) : Nat := (ts.filter fun t => decide (t = .sequencer)).length

end Machine

end Sys2Proof
end

