-- ==== Sys2Proof/Certificates/Slice0/Obligations.lean ====
section
/-!
DEFINITION. The statements for the provers. Each is a claim about the machine, taken from the numbered rules of the spec;
OBLIGATIONS.json names the rule or the section each rests on.
-/

open Sys2Proof Sys2Proof.Machine

/-! ### Encodings (30_encoding.md) -/

/-- A few words of 95_test_vectors.md section 2.3 decode to what stands beside them. -/
def Obligations.DecodeReadsTheWorkedWords : Prop :=
  decodeMicroOp 0x24A32041 = .ok (.cmag .acc .re .im 65) ∧
  decodeMicroOp 0x04410080 = .ok (.copy .work .input 128) ∧
  decodeMicroOp 0x45490080 = .ok (.fft .fout .fin 128) ∧
  decodeMicroOp 0x0C423880 = .ok (.mul .work .work .hann 128) ∧
  decodeMicroOp 0x28C10041 = .ok (.pnorm .out .input 65) ∧
  decodeMicroOp 0x00000000 = .ok .done ∧
  decodeMicroOp 0x18410000 = .error .reservedOpcode ∧
  decodeMicroOp 0x04410800 = .error .mustBeZero ∧
  decodeCommand 0x00000003 = .ok .destroy ∧
  decodeCommand 0x00000101 = .error .illegalCommand

/-- Decode and encode agree: an instruction whose lane count fits its field comes back from its word, with every operand
at every value; and every legal instruction is such a one. -/
def Obligations.DecodeOfEncodeIsTheInstruction : Prop :=
  (∀ i : Instr, i.encodable = true → decodeAs i.isMicroOp (encode i) = .ok i) ∧
  ∀ (p : Params) (i : Instr), p.wf → i.wellFormed p = true → i.encodable = true

/-- A word that decodes is the encoding of what it decodes to: no bit of a decodable word is ignored. -/
def Obligations.EncodeOfDecodeIsTheWord : Prop :=
  ∀ (microOp : Bool) (w : Word) (i : Instr), decodeAs microOp w = .ok i →
    encode i = w ∧ i.encodable = true ∧ i.isMicroOp = microOp

/-- The opcode table: a row selects exactly the words that decode to its mnemonic, in each of the two formats. -/
def Obligations.TableRowsSelectWhatDecodes : Prop :=
  (∀ r ∈ microOpRows, ∀ w, r.selects w = true ↔ ∃ i, decodeMicroOp w = .ok i ∧ i.mnemonic = r.mnemonic) ∧
  (∀ r ∈ commandRows, ∀ v, r.selects v = true ↔ ∃ i, decodeCommand v = .ok i ∧ i.mnemonic = r.mnemonic) ∧
  (∀ w, (∀ r ∈ microOpRows, r.selects w = false) ↔ ∃ e, decodeMicroOp w = .error e) ∧
  (∀ v, (∀ r ∈ commandRows, r.selects v = false) ↔ ∃ e, decodeCommand v = .error e) ∧
  microOpRows.length = 14 ∧ commandRows.length = 3

/-- The command words are 1, 2 and 3, and no other word is a command. -/
def Obligations.CommandDecodeTakesOneTwoThree : Prop :=
  ∀ v : Word,
    decodeCommand v =
      if v = 0x00000001 then .ok .construct
      else if v = 0x00000002 then .ok .transform
      else if v = 0x00000003 then .ok .destroy
      else .error .illegalCommand

/-- The machine's check passes exactly the forms of the operand table R95. -/
def Obligations.LegalityCheckAcceptsTheLegalForms : Prop :=
  ∀ (p : Params) (i : Instr), legalityFault p i = none ↔ i.wellFormed p = true

/-- The order of the check on decoded micro-ops: a missing or reserved id first, then the class of an operand, then the
lane count. -/
def Obligations.LegalityCheckFaultsInOrder : Prop :=
  let missing : BufId → Prop := fun b => b = .noBuf ∨ ∃ k, b = .reserved k
  ∀ (p : Params) (d a b : BufId) (len : Nat),
    (∀ i ∈ [Instr.copy d a len, .sqrt d a len, .sqr d a len, .logc d a len, .winmul d a len, .pnorm d a len],
      ((missing d ∨ missing a) → legalityFault p i = some .illegalMicroOp) ∧
      (¬ missing d → ¬ missing a → (d.isRealW = false ∨ a.isReal = false) →
        legalityFault p i = some .operandFault) ∧
      (d.isRealW = true → a.isReal = true → (len = 0 ∨ p.bufLen d < len ∨ p.bufLen a < len) →
        legalityFault p i = some .operandFault)) ∧
    (∀ i ∈ [Instr.add d a b len, .mul d a b len, .cmag d a b len],
      ((missing d ∨ missing a ∨ missing b) → legalityFault p i = some .illegalMicroOp) ∧
      (¬ missing d → ¬ missing a → ¬ missing b → (d.isRealW = false ∨ a.isReal = false ∨ b.isReal = false) →
        legalityFault p i = some .operandFault) ∧
      (d.isRealW = true → a.isReal = true → b.isReal = true →
        (len = 0 ∨ p.bufLen d < len ∨ p.bufLen a < len ∨ p.bufLen b < len) →
        legalityFault p i = some .operandFault)) ∧
    (((missing d ∨ missing a) → legalityFault p (.pack d a len) = some .illegalMicroOp) ∧
      (¬ missing d → ¬ missing a → (d.isComplex = false ∨ a.isReal = false) →
        legalityFault p (.pack d a len) = some .operandFault) ∧
      (d.isComplex = true → a.isReal = true → (len = 0 ∨ p.bufLen d < len ∨ p.bufLen a < len) →
        legalityFault p (.pack d a len) = some .operandFault)) ∧
    (∀ i ∈ [Instr.real d a len, .imag d a len],
      ((missing d ∨ missing a) → legalityFault p i = some .illegalMicroOp) ∧
      (¬ missing d → ¬ missing a → (d.isRealW = false ∨ a.isComplex = false) →
        legalityFault p i = some .operandFault) ∧
      (d.isRealW = true → a.isComplex = true → (len = 0 ∨ p.bufLen d < len ∨ p.bufLen a < len) →
        legalityFault p i = some .operandFault)) ∧
    (((missing d ∨ missing a) → legalityFault p (.fft d a len) = some .illegalMicroOp) ∧
      (¬ missing d → ¬ missing a → ¬ (d = .fout ∧ a = .fin) →
        legalityFault p (.fft d a len) = some .operandFault) ∧
      (d = .fout → a = .fin → len ≠ p.n → legalityFault p (.fft d a len) = some .operandFault))

/-! ### The step (44_pipeline_fsm.md, 60_exceptions.md, 10_state.md) -/

/-- A step runs the decoded micro-op: on the sequencer's turn, with TRANSFORM in progress and a word at `UROM[upc]` that
decodes to `i`, the step is exec of `i`; the step adds only that the turn is taken off the agenda. -/
def Obligations.SequencerStepExecutesTheMicroOp : Prop :=
  ∀ (s : State) (w : Word) (i : Instr),
    SequencersTurn s → s.cmdL = some .transform → s.params.urom[s.upc]? = some w → decodeMicroOp w = .ok i →
    step s = exec i s.takeTurn

/-- A step runs the decoded command: on the host's turn, a store to `CMD` of a word that decodes to `i`, with `BUSY = 0`,
is exec of `i`; the step adds that the turn is taken off the agenda and the store is answered on the bus. -/
def Obligations.CmdStoreExecutesTheCommand : Prop :=
  ∀ (s : State) (v : Word) (i : Instr) (rest : List Turn),
    s.agenda = .host (cmdAccess s.params v) :: rest → s.busy = false → decodeCommand v = .ok i →
    step s = exec i { s with agenda := rest, reply := some .stored }

/-- While CONSTRUCT or DESTROY is in progress the sequencer's step is that command's completion, and with no command in
progress it changes nothing (that it then leaves the state as it is, is the model's choice: log entry 9). -/
def Obligations.SequencerCompletesOrIdles : Prop :=
  ∀ s : State, SequencersTurn s →
    (s.cmdL = some .construct → step s = exec .construct s.takeTurn) ∧
    (s.cmdL = some .destroy → step s = exec .destroy s.takeTurn) ∧
    (s.cmdL = none → step s = .next s.takeTurn)

/-- A fetch at `upc ≥ ULEN` ends the command with `IllegalMicroOp`, and a word that fails the check of R108 ends it with
the fault of the first failing step: `upc`, `life` and every buffer stay. -/
def Obligations.BadFetchOrWordEndsTheCommand : Prop :=
  ∀ (s : State), SequencersTurn s → s.cmdL = some .transform →
    (s.params.ulen ≤ s.upc →
      step s = .next { s.takeTurn with err := .illegalMicroOp, done := false, busy := false, cmdL := none }) ∧
    ∀ (w : Word) (e : ErrCode), s.params.urom[s.upc]? = some w → checkWord s.params w = .error e →
      (e = .illegalMicroOp ∨ e = .operandFault) ∧
        step s = .next { s.takeTurn with err := e, done := false, busy := false, cmdL := none }

/-- Entry of a check fault: an illegal micro-op ends the command with its code and writes nothing. -/
def Obligations.CheckFaultWritesNothing : Prop :=
  ∀ (s : State) (i : Instr) (e : ErrCode), i.isMicroOp = true → legalityFault s.params i = some e →
    exec i s = .next { s with err := e, done := false, busy := false, cmdL := none }

/-- A legal micro-op that reads an element that holds no value faults (R24). That the fault names the first unwritten
source in operand order is the model's choice (log entry 3). -/
def Obligations.UnwrittenSourceLaneFaults : Prop :=
  ∀ (s : State) (d a b : BufId) (len : Nat),
    (∀ i ∈ [Instr.copy d a len, .sqrt d a len, .sqr d a len, .logc d a len, .winmul d a len, .pnorm d a len,
        .pack d a len, .add d a b len, .mul d a b len, .cmag d a b len],
      i.wellFormed s.params = true → ¬ Written (s.realBuf a) len → exec i s = .fault (.unwrittenRead a)) ∧
    (∀ i ∈ [Instr.add d a b len, .mul d a b len, .cmag d a b len],
      i.wellFormed s.params = true → Written (s.realBuf a) len → ¬ Written (s.realBuf b) len →
        exec i s = .fault (.unwrittenRead b)) ∧
    ((Instr.winmul d a len).wellFormed s.params = true → Written (s.realBuf a) len → ¬ Written s.hann len →
      exec (.winmul d a len) s = .fault (.unwrittenRead .hann)) ∧
    ((Instr.pnorm d a len).wellFormed s.params = true → Written (s.realBuf a) len → ¬ Written s.pcoef len →
      exec (.pnorm d a len) s = .fault (.unwrittenRead .pcoef)) ∧
    (∀ i ∈ [Instr.real d a len, .imag d a len],
      i.wellFormed s.params = true → ¬ Written (s.cplxBuf a) len → exec i s = .fault (.unwrittenRead a)) ∧
    (¬ Written s.fin s.params.n → exec (.fft .fout .fin s.params.n) s = .fault (.unwrittenRead .fin))

/-! ### The micro-ops: what each writes, and that it writes nothing else

Where a result is a NaN it is the draw of R132: `freshNaN` at the draw counter, the lane and the operation within the
lane (a free value, log entry 5). -/

/-- `COPY`: every lane of the destination is the source's pattern, unchanged. -/
def Obligations.CopyMovesThePatterns : Prop :=
  ∀ (s : State) (dst sa : BufId) (len : Nat),
    Memory.wf s → (Instr.copy dst sa len).wellFormed s.params = true → Written (s.realBuf sa) len →
    ∃ t, exec (.copy dst sa len) s = .next t ∧ KernelFrame s t dst len ∧ t.port = s.port ∧
      ∀ i < len, cellAt (t.realBuf dst) i = cellAt (s.realBuf sa) i

/-- `ADD`: every lane of the destination is the rounded sum. -/
def Obligations.AddWritesTheSums : Prop :=
  ∀ (s : State) (dst sa sb : BufId) (len : Nat),
    Memory.wf s → (Instr.add dst sa sb len).wellFormed s.params = true →
    Written (s.realBuf sa) len → Written (s.realBuf sb) len →
    ∃ t, exec (.add dst sa sb len) s = .next t ∧ KernelFrame s t dst len ∧ t.port = s.port ∧
      ∀ i < len, ∀ x y, cellAt (s.realBuf sa) i = some x → cellAt (s.realBuf sb) i = some y →
        cellAt (t.realBuf dst) i = some (F32.fadd (freshNaN s.draws i 0) x y)

/-- `MUL`: every lane of the destination is the rounded product. -/
def Obligations.MulWritesTheProducts : Prop :=
  ∀ (s : State) (dst sa sb : BufId) (len : Nat),
    Memory.wf s → (Instr.mul dst sa sb len).wellFormed s.params = true →
    Written (s.realBuf sa) len → Written (s.realBuf sb) len →
    ∃ t, exec (.mul dst sa sb len) s = .next t ∧ KernelFrame s t dst len ∧ t.port = s.port ∧
      ∀ i < len, ∀ x y, cellAt (s.realBuf sa) i = some x → cellAt (s.realBuf sb) i = some y →
        cellAt (t.realBuf dst) i = some (F32.fmul (freshNaN s.draws i 0) x y)

/-- `SQRT`: every lane of the destination is the rounded square root. -/
def Obligations.SqrtWritesTheRoots : Prop :=
  ∀ (s : State) (dst sa : BufId) (len : Nat),
    Memory.wf s → (Instr.sqrt dst sa len).wellFormed s.params = true → Written (s.realBuf sa) len →
    ∃ t, exec (.sqrt dst sa len) s = .next t ∧ KernelFrame s t dst len ∧ t.port = s.port ∧
      ∀ i < len, ∀ x, cellAt (s.realBuf sa) i = some x →
        cellAt (t.realBuf dst) i = some (F32.fsqrt (freshNaN s.draws i 0) x)

/-- `SQR`: every lane of the destination is the rounded square. -/
def Obligations.SqrWritesTheSquares : Prop :=
  ∀ (s : State) (dst sa : BufId) (len : Nat),
    Memory.wf s → (Instr.sqr dst sa len).wellFormed s.params = true → Written (s.realBuf sa) len →
    ∃ t, exec (.sqr dst sa len) s = .next t ∧ KernelFrame s t dst len ∧ t.port = s.port ∧
      ∀ i < len, ∀ x, cellAt (s.realBuf sa) i = some x →
        cellAt (t.realBuf dst) i = some (F32.fmul (freshNaN s.draws i 0) x x)

/-- `WINMUL`: every lane of the destination is the source times the `HANN` coefficient of that lane. -/
def Obligations.WinmulAppliesTheWindow : Prop :=
  ∀ (s : State) (dst sa : BufId) (len : Nat),
    Memory.wf s → (Instr.winmul dst sa len).wellFormed s.params = true →
    Written (s.realBuf sa) len → Written s.hann len →
    ∃ t, exec (.winmul dst sa len) s = .next t ∧ KernelFrame s t dst len ∧ t.port = s.port ∧
      ∀ i < len, ∀ x c, cellAt (s.realBuf sa) i = some x → cellAt s.hann i = some c →
        cellAt (t.realBuf dst) i = some (F32.fmul (freshNaN s.draws i 0) x c)

/-- `CMAG`: every lane is `sqrt(re² + im²)` with four separate roundings; under `POWER_PATH = DIRECT` it is the sum. -/
def Obligations.CmagWritesTheMagnitudes : Prop :=
  ∀ (s : State) (dst sa sb : BufId) (len : Nat),
    Memory.wf s → (Instr.cmag dst sa sb len).wellFormed s.params = true →
    Written (s.realBuf sa) len → Written (s.realBuf sb) len →
    ∃ t, exec (.cmag dst sa sb len) s = .next t ∧ KernelFrame s t dst len ∧ t.port = s.port ∧
      ∀ i < len, ∀ x y, cellAt (s.realBuf sa) i = some x → cellAt (s.realBuf sb) i = some y →
        let nan := freshNaN s.draws i
        let sum := F32.fadd (nan 2) (F32.fmul (nan 0) x x) (F32.fmul (nan 1) y y)
        cellAt (t.realBuf dst) i = some (if s.params.powerPath = .roundTrip then F32.fsqrt (nan 3) sum else sum)

/-- `PNORM`: every lane, the Nyquist lane included, is the square of the magnitude times the `PCOEF` element of that
lane; under `POWER_PATH = DIRECT` it is the source times that element. -/
def Obligations.PnormWritesTheNormalizedPower : Prop :=
  ∀ (s : State) (dst sa : BufId) (len : Nat),
    Memory.wf s → (Instr.pnorm dst sa len).wellFormed s.params = true →
    Written (s.realBuf sa) len → Written s.pcoef len →
    ∃ t, exec (.pnorm dst sa len) s = .next t ∧ KernelFrame s t dst len ∧ t.port = s.port ∧
      ∀ i < len, ∀ x c, cellAt (s.realBuf sa) i = some x → cellAt s.pcoef i = some c →
        let nan := freshNaN s.draws i
        cellAt (t.realBuf dst) i =
          some (if s.params.powerPath = .roundTrip then F32.fmul (nan 1) (F32.fmul (nan 0) x x) c
            else F32.fmul (nan 0) x c)

/-- `LOGC`: every lane is `10.0 × LOG10F` of the clamped source, the product rounded on its own, or `LNF` of it when the
LATCHED mode bit is 1; in both modes a NaN is the drawn one. The logarithms are free functions (log entries 7, 18). -/
def Obligations.LogcWritesTheLogarithms : Prop :=
  ∀ (s : State) (dst sa : BufId) (len : Nat),
    Memory.wf s → (Instr.logc dst sa len).wellFormed s.params = true → Written (s.realBuf sa) len →
    ∃ t, exec (.logc dst sa len) s = .next t ∧ KernelFrame s t dst len ∧ t.port = s.port ∧
      ∀ i < len, ∀ x, cellAt (s.realBuf sa) i = some x →
        let pc := clampLane s.params.clampNaN x
        cellAt (t.realBuf dst) i =
          some (if s.logmodeL = false then F32.fmul (freshNaN s.draws i 0) 0x41200000 (Config.log10f pc)
            else if (Config.lnf pc).isNaN then freshNaN s.draws i 0 else Config.lnf pc)

/-- `PACK`: every lane is the source's pattern as real part and +0 as imaginary part. -/
def Obligations.PackBuildsTheComplexSequence : Prop :=
  ∀ (s : State) (dst sa : BufId) (len : Nat),
    Memory.wf s → (Instr.pack dst sa len).wellFormed s.params = true → Written (s.realBuf sa) len →
    ∃ t, exec (.pack dst sa len) s = .next t ∧ KernelFrame s t dst len ∧ t.port = s.port ∧
      ∀ i < len, ∀ x, cellAt (s.realBuf sa) i = some x →
        cellAt (t.cplxBuf dst) i = some { re := x, im := 0x00000000 }

/-- `FFT`: the request carries the context and all of `FIN`; on `ok` the answer is written to `FOUT` and nothing else
changes; on `error` the command ends with `TransformFailure`, `FOUT` holds no value, and nothing else changes. Which of
the two happens is a free value (log entry 6). -/
def Obligations.FftStoresTheAnswerOrFails : Prop :=
  ∀ (s : State) (c : Ctx) (x : List C32),
    Memory.wf s → s.ctx = some c → x.length = s.params.n → (∀ i < s.params.n, cellAt s.fin i = x[i]?) →
    ∃ t, exec (.fft .fout .fin s.params.n) s = .next t ∧ t.port = some (.forward c x) ∧
      if Config.fftForwardOk s.draws then
        KernelFrame s t .fout s.params.n ∧ ∀ k < s.params.n, cellAt t.fout k = some (Config.fftValue c x k)
      else
        Vacant t.fout ∧ t.fout.length = s.params.n ∧
          t = { s with
                fout := t.fout, err := .transformFailure, done := false, busy := false, cmdL := none,
                port := t.port, draws := t.draws }

/-- `REAL`: every lane is the real part of the source, bits unchanged. -/
def Obligations.RealTakesTheRealParts : Prop :=
  ∀ (s : State) (dst sa : BufId) (len : Nat),
    Memory.wf s → (Instr.real dst sa len).wellFormed s.params = true → Written (s.cplxBuf sa) len →
    ∃ t, exec (.real dst sa len) s = .next t ∧ KernelFrame s t dst len ∧ t.port = s.port ∧
      ∀ i < len, cellAt (t.realBuf dst) i = (cellAt (s.cplxBuf sa) i).map C32.re

/-- `IMAG`: every lane is the imaginary part of the source, bits unchanged. -/
def Obligations.ImagTakesTheImaginaryParts : Prop :=
  ∀ (s : State) (dst sa : BufId) (len : Nat),
    Memory.wf s → (Instr.imag dst sa len).wellFormed s.params = true → Written (s.cplxBuf sa) len →
    ∃ t, exec (.imag dst sa len) s = .next t ∧ KernelFrame s t dst len ∧ t.port = s.port ∧
      ∀ i < len, cellAt (t.realBuf dst) i = (cellAt (s.cplxBuf sa) i).map C32.im

/-- `DONE`: the whole word is zero, and any other word with its opcode is illegal; the command ends with success, `upc`
and everything else stay; `STATUS` then reads `LIFE = 1`, `DONE = 1`, the index of the word and `OVR`. -/
def Obligations.DoneEndsTheCommand : Prop :=
  decodeMicroOp 0x00000000 = .ok .done ∧
  (∀ (p : Params) (w : Word), fieldOp w = 0 → w ≠ 0x00000000 → checkWord p w = .error .illegalMicroOp) ∧
  ∀ s : State, s.life = .ready → s.upc < 32 →
    ∃ t, exec .done s = .next t ∧
      t = { s with busy := false, done := true, err := .noError, cmdL := none } ∧
      t.statusWord = BitVec.ofNat 32 (9 + 256 * s.upc + (if s.ovr then 8192 else 0))

/-! ### The host commands (45_host_commands.md) -/

/-- Execution of a command that is not in its completion step: while busy it is dropped and sets `OVR`, in the wrong life
state it is rejected with `IllegalState`, else it is accepted, and TRANSFORM's acceptance restarts the micro-program and
latches the log mode. -/
def Obligations.CommandsAreJudgedThenAccepted : Prop :=
  ∀ s : State,
    (s.cmdL ≠ some .construct →
      exec .construct s = .next (
        if s.busy = true then { s with ovr := true }
        else if s.life = .uninitialized then
          { s with busy := true, done := false, err := .noError, ovr := false, cmdL := some .construct }
        else { s with err := .illegalState, done := false })) ∧
    (exec .transform s = .next (
        if s.busy = true then { s with ovr := true }
        else if s.life = .ready then
          { s with
            busy := true, done := false, err := .noError, ovr := false, cmdL := some .transform,
            upc := 0, logmodeL := s.logmode }
        else { s with err := .illegalState, done := false })) ∧
    (s.cmdL ≠ some .destroy →
      exec .destroy s = .next (
        if s.busy = true then { s with ovr := true }
        else if s.life = .ready then
          { s with busy := true, done := false, err := .noError, ovr := false, cmdL := some .destroy }
        else { s with err := .illegalState, done := false }))

/-- `TRANSFORM` accepted: in `Ready` with `BUSY = 0` the micro-program starts at 0 with the mode bit latched. -/
def Obligations.TransformStartsTheMicroProgram : Prop :=
  ∀ s : State, s.busy = false → s.life = .ready →
    ∃ t, exec .transform s = .next t ∧ t.upc = 0 ∧ t.logmodeL = s.logmode ∧ t.cmdL = some .transform ∧
      t.busy = true ∧ t.done = false ∧ t.err = .noError ∧ t.ovr = false ∧ BuffersSame s t ∧
      t = { s with
            busy := t.busy, done := t.done, err := t.err, ovr := t.ovr, cmdL := t.cmdL, upc := t.upc,
            logmodeL := t.logmodeL }

/-- `CONSTRUCT`'s completion step: with allocation and engine both `ok` the tables are built, the context kept and the
instance is `Ready`; otherwise everything acquired is given back, the command ends with `ResourceExhaustion` and the
instance is `Uninitialized`. The engine is asked only after a successful allocation. Which case holds is a free value
(log entry 6). `IN`, `OUT`, `upc`, `CTRL` and `logmode_l` never change. -/
def Obligations.ConstructBuildsOrGivesBack : Prop :=
  ∀ s : State, s.cmdL = some .construct →
    ∃ t, exec .construct s = .next t ∧ t.params = s.params ∧ t.inp = s.inp ∧ t.out = s.out ∧ t.upc = s.upc ∧
      t.logmode = s.logmode ∧ t.logmodeL = s.logmodeL ∧ t.ovr = s.ovr ∧ t.busy = false ∧ t.cmdL = none ∧
      t.port = (if Config.allocOk s.draws then some (.init s.params.n) else s.port) ∧
      match (if Config.allocOk s.draws then Config.fftInit s.draws s.params.n else none) with
      | some c =>
        t.life = .ready ∧ t.ctx = some c ∧ t.done = true ∧ t.err = .noError ∧
        t.hann = s.params.hannTab.map some ∧ t.pcoef = List.replicate s.params.n (some (pcoefVal s.params.n)) ∧
        t.work = s.work ∧ t.re = s.re ∧ t.im = s.im ∧ t.acc = s.acc ∧ t.fin = s.fin ∧ t.fout = s.fout
      | none =>
        t.life = .uninitialized ∧ t.ctx = none ∧ t.done = false ∧ t.err = .resourceExhaustion ∧
        Vacant t.hann ∧ Vacant t.pcoef ∧ ScratchVacant t ∧ (Memory.wf s → Memory.wf t)

/-- `DESTROY`'s completion step: the context is released, every buffer the instance owns holds no value, and the instance
is `Destroyed`. `IN`, `OUT`, `upc`, `CTRL` and `logmode_l` keep their contents. -/
def Obligations.DestroyReleasesEverything : Prop :=
  ∀ (s : State) (c : Ctx), s.cmdL = some .destroy → s.ctx = some c →
    ∃ t, exec .destroy s = .next t ∧ t.life = .destroyed ∧ t.ctx = none ∧ t.busy = false ∧ t.done = true ∧
      t.err = .noError ∧ t.cmdL = none ∧ t.port = some (.release c) ∧
      Vacant t.hann ∧ Vacant t.pcoef ∧ ScratchVacant t ∧ (Memory.wf s → Memory.wf t) ∧
      t.inp = s.inp ∧ t.out = s.out ∧ t.upc = s.upc ∧ t.logmode = s.logmode ∧ t.logmodeL = s.logmodeL ∧
      t.ovr = s.ovr ∧ t.params = s.params

/-- A `CMD` store that is not accepted (an illegal word, or a command in the wrong life state) changes `ERR` and `DONE`
and nothing else of the core; an illegal word is reported before a wrong life state. -/
def Obligations.RejectedCommandChangesErrAndDone : Prop :=
  ∀ (s : State) (v : Word) (rest : List Turn),
    s.agenda = .host (cmdAccess s.params v) :: rest → s.busy = false → s.cmdL = none →
    ¬ (v = 1 ∧ s.life = .uninitialized) → ¬ (v = 2 ∧ s.life = .ready) → ¬ (v = 3 ∧ s.life = .ready) →
    step s = .next { s with
      agenda := rest, reply := some .stored, done := false,
      err := if v = 1 ∨ v = 2 ∨ v = 3 then .illegalState else .illegalCommand }

/-- A `CMD` store while `BUSY = 1`, whatever the word, only sets `OVR`. -/
def Obligations.BusyCmdStoreOnlySetsOvr : Prop :=
  ∀ (s : State) (v : Word) (rest : List Turn),
    s.agenda = .host (cmdAccess s.params v) :: rest → s.busy = true →
    step s = .next { s with agenda := rest, reply := some .stored, ovr := true }

/-! ### Binary32 arithmetic (40_vector_kernels.md section 2, 41_window_table.md, 43_core_kernels.md) -/

/-- The sum of two finite numbers is the exact real sum rounded once. Ties to even and gradual underflow are the spec's
reading of IEEE-754 (G6, D10), presumed in log entry 17. -/
def Obligations.FaddRoundsTheExactSum : Prop :=
  ∀ nan a b : F32, a.isFinite = true → b.isFinite = true →
    F32.RoundsTo ((a.value : ℝ) + (b.value : ℝ)) (F32.fadd nan a b)

/-- The product of two finite numbers is the exact real product rounded once. Ties to even and gradual underflow are the
spec's reading of IEEE-754 (G6, D10), presumed in log entry 17. -/
def Obligations.FmulRoundsTheExactProduct : Prop :=
  ∀ nan a b : F32, a.isFinite = true → b.isFinite = true →
    F32.RoundsTo ((a.value : ℝ) * (b.value : ℝ)) (F32.fmul nan a b)

/-- The square root of a finite number that is not negative is the exact real square root rounded once. Rounding to
nearest even is the spec's reading of IEEE-754 (G6, D10), presumed in log entry 17. -/
def Obligations.FsqrtRoundsTheExactRoot : Prop :=
  ∀ nan a : F32, a.isFinite = true → 0 ≤ a.value →
    F32.RoundsTo (Real.sqrt (a.value : ℝ)) (F32.fsqrt nan a)

/-- The infinite operands: which give an infinity and which a NaN; and the root of a negative number is a NaN. The sign of
an infinite product is general knowledge of the spec's (G3), presumed in log entry 17. -/
def Obligations.InfinitiesAndInvalidOperands : Prop :=
  ∀ nan a b : F32, a.isNaN = false → b.isNaN = false →
    (a.isInf = true → b.isInf = true → F32.fadd nan a b = if a.sign = b.sign then a else nan) ∧
    (a.isInf = true → b.isInf = false → F32.fadd nan a b = a ∧ F32.fadd nan b a = a) ∧
    (a.isInf = true → b.mag = 0 → F32.fmul nan a b = nan ∧ F32.fmul nan b a = nan) ∧
    (a.isInf = true → b.mag ≠ 0 →
      (F32.fmul nan a b).isInf = true ∧ ((F32.fmul nan a b).sign = true ↔ a.sign ≠ b.sign) ∧
        F32.fmul nan b a = F32.fmul nan a b) ∧
    (a.isInf = true → a.sign = false → F32.fsqrt nan a = a) ∧
    (a.sign = true → a.mag ≠ 0 → F32.fsqrt nan a = nan)

/-- The signs of zeros and products, which the spec supplies from general knowledge (G2, G3, G4; log entry 17): an exact zero sum is +0
except for two negative zeros, a product's sign is the exclusive-or, and the root of a zero is that zero. -/
def Obligations.SignsOfZerosAndProducts : Prop :=
  ∀ nan a b : F32, a.isFinite = true → b.isFinite = true →
    (a.value + b.value = 0 →
      F32.fadd nan a b = if a = 0x80000000 ∧ b = 0x80000000 then 0x80000000 else 0x00000000) ∧
    ((F32.fmul nan a b).sign = true ↔ a.sign ≠ b.sign) ∧
    (a.value = 0 → F32.fsqrt nan a = a)

/-- A NaN operand gives the drawn NaN, a NaN result is always the drawn NaN, and the drawn NaNs are quiet
(R132; which draw it is, log entry 5). The last clause, that whatever the logarithms are a NaN that `LOGC` writes is the
drawn one in both log modes, is for natural-log mode the model's reading of R172 together with U2 (log entry 18). -/
def Obligations.NaNResultsAreTheDrawnQuietNaN : Prop :=
  (∀ c i k, (freshNaN c i k).isQuietNaN = true) ∧
  (∀ d, (F32.quietNaN d).isNaN = true) ∧
  ∀ nan a b : F32,
    ((a.isNaN = true ∨ b.isNaN = true) → F32.fadd nan a b = nan ∧ F32.fmul nan a b = nan) ∧
    (a.isNaN = true → F32.fsqrt nan a = nan) ∧
    ((F32.fadd nan a b).isNaN = true → F32.fadd nan a b = nan) ∧
    ((F32.fmul nan a b).isNaN = true → F32.fmul nan a b = nan) ∧
    ((F32.fsqrt nan a).isNaN = true → F32.fsqrt nan a = nan) ∧
    ∀ (log10f lnf : F32 → F32) (mode : ClampNaN) (natural : Bool),
      (logcLane log10f lnf mode natural nan a).isNaN = true → logcLane log10f lnf mode natural nan a = nan

/-- The floor clamp of this hardware (`CLAMP_NAN = PROPAGATE`): below `FLOOR` it gives `FLOOR`, every other number and
every NaN passes unchanged; so a logarithm's argument is at least `FLOOR` or a NaN. -/
def Obligations.ClampGivesFloorOrTheOperand : Prop :=
  ∀ p : F32,
    (p.isNaN = true → clampLane .propagate p = p) ∧
    (p.isFinite = true → clampLane .propagate p =
      if p.value < (0x0DA24260 : F32).value then 0x0DA24260 else p) ∧
    (p.isInf = true → clampLane .propagate p = if p.sign then 0x0DA24260 else p) ∧
    ((clampLane .propagate p).isNaN = false →
      (clampLane .propagate p).sign = false ∧ (0x0DA24260 : F32).mag ≤ (clampLane .propagate p).mag)

/-- The magnitude and the power of operands that give no NaN are never negative and never −0. -/
def Obligations.MagnitudeAndPowerAreNotNegative : Prop :=
  ∀ (path : PowerPath) (nan : Nat → F32) (x y c : F32), c.sign = false →
    ((cmagLane path nan x y).isNaN = false → (∀ k, (nan k).isNaN = true) → (cmagLane path nan x y).sign = false) ∧
    (∀ m : F32, m.sign = false → (∀ k, (nan k).isNaN = true) → (pnormLane path nan m c).isNaN = false →
      (pnormLane path nan m c).sign = false)

/-- The two numeric constants are the nearest binary32 numbers: `PCOEF_VAL` to `1/N²` (2⁻¹⁴ for N = 128) and `FLOOR` to
10⁻³⁰. -/
def Obligations.ConstantsAreRoundedOnce : Prop :=
  (∀ n : Nat, 2 ≤ n → n ≤ 2046 → F32.RoundsTo (1 / ((n : ℝ) * (n : ℝ))) (pcoefVal n)) ∧
  pcoefVal 128 = 0x38800000 ∧
  F32.RoundsTo ((10 : ℝ) ^ (-30 : ℤ)) Config.floorValue ∧ Config.floorValue = 0x0DA24260

/-! ### Equalities of kernels (30_encoding.md R110, 43_core_kernels.md, 40_vector_kernels.md R122) -/

/-- `WINMUL d, a, len` and `MUL d, a, HANN, len` leave identical state, legal or not. (That their NaN payloads agree too
is the model's choice: both see the same draws, log entry 5.) -/
def Obligations.WinmulIsMulByHann : Prop :=
  ∀ (s : State) (d a : BufId) (len : Nat), exec (.winmul d a len) s = exec (.mul d a .hann len) s

/-- `PNORM d, a, len` leaves in `d` what `SQR d, a, len` ; `MUL d, d, PCOEF, len` leave there, up to the payload of a
NaN; every other buffer agrees too. -/
def Obligations.PnormIsSqrThenMulByPcoef : Prop :=
  ∀ (s : State) (d a : BufId) (len : Nat),
    Memory.wf s → s.params.powerPath = .roundTrip → (Instr.pnorm d a len).wellFormed s.params = true →
    Written (s.realBuf a) len → Written s.pcoef len →
    ∃ t u v, exec (.pnorm d a len) s = .next t ∧ exec (.sqr d a len) s = .next u ∧
      exec (.mul d d .pcoef len) u = .next v ∧
      (∀ b, b ≠ d → t.realBuf b = v.realBuf b ∧ t.cplxBuf b = v.cplxBuf b) ∧
      ∀ i, match cellAt (t.realBuf d) i, cellAt (v.realBuf d) i with
        | some x, some y => F32.SameUpToNaN x y
        | none, none => True
        | _, _ => False

/-- `CMAG d, re, im, len` leaves in `d` what `SQR re, re` ; `SQR im, im` ; `ADD d, re, im` ; `SQRT d, d` leave there, up
to the payload of a NaN, for two different writable buffers `re` and `im`; `d` may be one of them. -/
def Obligations.CmagIsItsFourKernels : Prop :=
  ∀ (s : State) (d x y : BufId) (len : Nat),
    Memory.wf s → s.params.powerPath = .roundTrip → d.isRealW = true → x.isRealW = true → y.isRealW = true →
    x ≠ y → (Instr.cmag d x y len).wellFormed s.params = true →
    Written (s.realBuf x) len → Written (s.realBuf y) len →
    ∃ t u₁ u₂ u₃ u₄, exec (.cmag d x y len) s = .next t ∧ exec (.sqr x x len) s = .next u₁ ∧
      exec (.sqr y y len) u₁ = .next u₂ ∧ exec (.add d x y len) u₂ = .next u₃ ∧
      exec (.sqrt d d len) u₃ = .next u₄ ∧
      ∀ i < len, ∃ a b, cellAt (t.realBuf d) i = some a ∧ cellAt (u₄.realBuf d) i = some b ∧ F32.SameUpToNaN a b

/-- The order of lanes is unobservable: doing the lanes of a two-source micro-op one at a time, in any order, ends in the
state the whole micro-op ends in, in place or not. -/
def Obligations.LanesInAnyOrder : Prop :=
  ∀ (s : State) (dst sa sb : BufId) (len : Nat) (f : Nat → F32 → F32 → F32) (order : List Nat),
    Memory.wf s → dst.isRealW = true → len ≤ s.params.bufLen dst →
    Written (s.realBuf sa) len → Written (s.realBuf sb) len → order.Perm (List.range len) →
    ∃ u, order.foldlM (oneLane dst sa sb f) s = some u ∧ s.binary dst sa sb len f = .next u.retire

/-! ### The host port (20_memory.md, 10_state.md) -/

/-- The host load, location by location; every other offset of the block, and every other alignment and width, is a bus
error. Nothing but the bus answer changes. -/
def Obligations.HostLoadReadsTheMap : Prop :=
  ∀ s : State, s.params.wf →
    let load (off : Nat) := hostAccess (.load (s.params.base + off) 4) s
    let answers (v : Word) : Result := .next { s with reply := some (.data v) }
    load 0x0000 = answers 0x4C535043 ∧ load 0x0004 = answers 0 ∧ load 0x0008 = answers s.statusWord ∧
    load 0x000C = answers (if s.logmode then 1 else 0) ∧ load 0x0010 = answers (BitVec.ofNat 32 s.params.n) ∧
    load 0x0014 = answers (BitVec.ofNat 32 (s.params.n / 2 + 1)) ∧
    (∀ n < s.params.n, load (0x1000 + 4 * n) =
      match cellAt s.inp n with
      | some v => answers v
      | none => .fault (.unwrittenRead .input)) ∧
    (∀ k < s.params.n / 2 + 1, load (0x3000 + 4 * k) =
      match cellAt s.out k with
      | some v => answers v
      | none => .fault (.unwrittenRead .out)) ∧
    ∀ off width, off < 0x4000 →
      (width ≠ 4 ∨ off % 4 ≠ 0 ∨ (0x0018 ≤ off ∧ off < 0x1000) ∨
        (0x1000 + 4 * s.params.n ≤ off ∧ off < 0x3000) ∨ 0x3000 + 4 * (s.params.n / 2 + 1) ≤ off) →
      hostAccess (.load (s.params.base + off) width) s = .next { s with reply := some .busError }

/-- The host store, location by location (`CMD` has statements of its own); stores to read-only locations are ignored. -/
def Obligations.HostStoreWritesTheMap : Prop :=
  ∀ (s : State) (v : Word), s.params.wf → Memory.wf s →
    let store (off : Nat) := hostAccess (.store (s.params.base + off) 4 v) s
    let taken : State := { s with reply := some .stored }
    store 0x000C = .next { taken with logmode := v.getLsbD 0 } ∧
    store 0x0000 = .next taken ∧ store 0x0008 = .next taken ∧ store 0x0010 = .next taken ∧
    store 0x0014 = .next taken ∧ (∀ k < s.params.n / 2 + 1, store (0x3000 + 4 * k) = .next taken) ∧
    ∀ n < s.params.n, ∃ t, store (0x1000 + 4 * n) = .next t ∧ t = { taken with inp := t.inp } ∧
      t.inp.length = s.params.n ∧ cellAt t.inp n = some v ∧ ∀ m, m ≠ n → cellAt t.inp m = cellAt s.inp m

/-- A reserved offset, a misaligned access and an access of another width are bus errors, for loads and stores alike, and
change nothing of the core. -/
def Obligations.BusErrorChangesNothing : Prop :=
  ∀ (s : State) (off width : Nat) (v : Word), s.params.wf → off < 0x4000 →
    (width ≠ 4 ∨ off % 4 ≠ 0 ∨ (0x0018 ≤ off ∧ off < 0x1000) ∨ (0x1000 + 4 * s.params.n ≤ off ∧ off < 0x3000) ∨
      0x3000 + 4 * (s.params.n / 2 + 1) ≤ off) →
    hostAccess (.load (s.params.base + off) width) s = .next { s with reply := some .busError } ∧
    hostAccess (.store (s.params.base + off) width v) s = .next { s with reply := some .busError }

/-- `STATUS`, field by field: every field shows its piece of state, the reserved bits read 0, and `LIFE` is never 3. -/
def Obligations.StatusShowsItsFields : Prop :=
  ∀ s : State, s.upc < 32 →
    (s.statusWord.extractLsb' 0 2).toNat =
      (match s.life with | .uninitialized => 0 | .ready => 1 | .destroyed => 2) ∧
    s.statusWord.getLsbD 2 = s.busy ∧ s.statusWord.getLsbD 3 = s.done ∧
    (s.statusWord.extractLsb' 4 4).toNat =
      (match s.err with
        | .noError => 0 | .resourceExhaustion => 1 | .transformFailure => 2 | .illegalState => 3
        | .illegalCommand => 4 | .illegalMicroOp => 5 | .operandFault => 6) ∧
    (s.statusWord.extractLsb' 8 5).toNat = s.upc ∧ s.statusWord.getLsbD 13 = s.ovr ∧
    s.statusWord.extractLsb' 14 18 = 0

/-! ### Reset and the whole machine -/

/-- The reset input puts every piece of state to its value of the reset table, from any state. -/
def Obligations.ResetInputGivesTheResetValues : Prop :=
  ∀ (s : State) (rest : List Turn), s.agenda = .reset :: rest →
    ∃ t, step s = .next t ∧ t.life = .uninitialized ∧ t.busy = false ∧ t.done = false ∧ t.ovr = false ∧
      t.err = .noError ∧ t.upc = 0 ∧ t.logmode = false ∧ t.logmodeL = false ∧ t.cmdL = none ∧ t.ctx = none ∧
      Vacant t.inp ∧ Vacant t.out ∧ ScratchVacant t ∧ Vacant t.hann ∧ Vacant t.pcoef ∧ Memory.wf t ∧
      t.params = s.params ∧ t.statusWord = 0x00000000

/-- The invariant holds at reset. -/
def Obligations.ResetStateSatisfiesTheInvariant : Prop := State.reset.Inv

/-- Every step, of any agent, keeps the invariant. -/
def Obligations.EveryStepKeepsTheInvariant : Prop :=
  ∀ s t : State, s.Inv → step s = .next t → t.Inv

/-- The life state moves only from `Uninitialized` to `Ready` by CONSTRUCT's completion and from `Ready` to `Destroyed` by
DESTROY's; `Destroyed` is left only by the reset input. -/
def Obligations.LifeMovesOnlyForward : Prop :=
  ∀ s t : State, s.Inv → step s = .next t → s.agenda.head? ≠ some .reset →
    t.life = s.life ∨
    (s.life = .uninitialized ∧ t.life = .ready ∧ s.cmdL = some .construct ∧ SequencersTurn s) ∨
    (s.life = .ready ∧ t.life = .destroyed ∧ s.cmdL = some .destroy ∧ SequencersTurn s)

/-- No rule changes the parameters or the micro-program; and `HANN` and `PCOEF` change only in a completion step of
CONSTRUCT or DESTROY, or at reset. -/
def Obligations.ConstantsChangeOnlyByTheirCommands : Prop :=
  ∀ s t : State, step s = .next t →
    t.params = s.params ∧
    (s.agenda.head? ≠ some .reset → (t.hann ≠ s.hann ∨ t.pcoef ≠ s.pcoef) →
      s.cmdL = some .construct ∨ s.cmdL = some .destroy)

/-- `IN` and `CTRL` change only on a host store or at reset; `OUT` changes only on the sequencer's turn in a TRANSFORM or
at reset; a sequencer step never changes `CTRL`. -/
def Obligations.CallerStateChangesOnlyWhereItMay : Prop :=
  ∀ s t : State, s.Inv → step s = .next t → s.agenda.head? ≠ some .reset →
    ((t.inp ≠ s.inp ∨ t.logmode ≠ s.logmode) →
      ∃ addr width v, s.agenda.head? = some (.host (.store addr width v))) ∧
    (t.out ≠ s.out → SequencersTurn s ∧ s.cmdL = some .transform)

/-- The sequencer's state machine: with the normative micro-program every sequencer step goes along an edge of its table,
and back to idle exactly where the table says so. The first clause is no edge of the table: R181 gives an idle sequencer
no step, and that its turn leaves it idle is the model's choice (log entry 9). -/
def Obligations.SequencerFollowsItsStateMachine : Prop :=
  ∀ s t : State, s.Inv → s.params.urom = normativeUrom s.params.n → SequencersTurn s → step s = .next t →
    (s.fsm = some .idle → t.fsm = some .idle) ∧
    (s.fsm = some .sConstruct → t.fsm = some .idle) ∧
    (s.fsm = some .sDestroy → t.fsm = some .idle) ∧
    (s.fsm = some .sLoad → t.fsm = some .sWindow) ∧
    (s.fsm = some .sWindow → t.fsm = some .sPack) ∧
    (s.fsm = some .sPack → t.fsm = some .sFft) ∧
    (s.fsm = some .sFft → t.fsm = some .sMagpow ∨ (t.fsm = some .idle ∧ t.err = .transformFailure)) ∧
    (s.fsm = some .sMagpow → t.fsm = if s.upc < 7 then some .sMagpow else some .sLog) ∧
    (s.fsm = some .sLog → t.fsm = some .sDone) ∧
    (s.fsm = some .sDone → t.fsm = some .idle ∧ t.done = true)

/-- A whole TRANSFORM on this hardware. From a `Ready` idle instance whose frame is written, the accepted command and the
sequencer steps that follow compute, for every bin, the log power of the engine's answer to the windowed frame; or, if
the engine fails, end with `TransformFailure` and `OUT` untouched. The draw counter tells the NaNs of the steps apart
(log entry 5), whether the engine fails is a free value (log entry 6), the logarithms are free functions (log entries 7,
18), and the steps run past the end of the agenda, where the sequencer is scheduled (log entry 1). -/
def Obligations.TransformComputesTheLogPowerSpectrum : Prop :=
  ∀ (s : State) (c : Ctx) (x : Nat → F32),
    s.Inv → s.params.urom = normativeUrom s.params.n → s.params.powerPath = .roundTrip →
    s.agenda = [.host (cmdAccess s.params 2)] → s.busy = false → s.life = .ready → s.ctx = some c →
    (∀ i < s.params.n, cellAt s.inp i = some (x i)) →
    let N := s.params.n
    let nan (j i k : Nat) := freshNaN (s.draws + j) i k
    let win (i : Nat) := F32.fmul (nan 1 i 0) (x i) (s.params.hannTab.getD i 0)
    let packed := (List.range N).map fun i => ({ re := win i, im := 0 } : C32)
    let y (k : Nat) := Config.fftValue c packed k
    let m (k : Nat) := F32.fsqrt (nan 6 k 3)
      (F32.fadd (nan 6 k 2) (F32.fmul (nan 6 k 0) (y k).re (y k).re) (F32.fmul (nan 6 k 1) (y k).im (y k).im))
    let p (k : Nat) := F32.fmul (nan 7 k 1) (F32.fmul (nan 7 k 0) (m k) (m k)) (pcoefVal N)
    let pc (k : Nat) := clampLane s.params.clampNaN (p k)
    if Config.fftForwardOk (s.draws + 3) then
      ∃ t, runSteps 11 s = .next t ∧
        (∀ k < N / 2 + 1, cellAt t.out k =
          some (if s.logmode = false then F32.fmul (nan 8 k 0) 0x41200000 (Config.log10f (pc k))
            else if (Config.lnf (pc k)).isNaN then nan 8 k 0 else Config.lnf (pc k))) ∧
        (∀ k < N / 2 + 1, cellAt t.acc k = some (p k) ∧ cellAt t.re k = some (y k).re ∧
          cellAt t.im k = some (y k).im) ∧
        (∀ i < N, cellAt t.work i = some (win i) ∧ cellAt t.fin i = some { re := win i, im := 0 } ∧
          cellAt t.fout i = some (y i)) ∧
        t.life = .ready ∧ t.busy = false ∧ t.done = true ∧ t.err = .noError ∧ t.upc = 9 ∧ t.cmdL = none ∧
        t.inp = s.inp ∧ t.hann = s.hann ∧ t.pcoef = s.pcoef ∧ t.ctx = s.ctx ∧ t.logmode = s.logmode
    else
      ∃ t, runSteps 5 s = .next t ∧ t.out = s.out ∧ t.inp = s.inp ∧ t.life = .ready ∧ t.busy = false ∧
        t.done = false ∧ t.err = .transformFailure ∧ t.upc = 3 ∧ t.cmdL = none ∧ Vacant t.fout ∧
        t.ctx = s.ctx ∧ t.re = s.re ∧ t.im = s.im ∧ t.acc = s.acc

/-- A command in progress ends: with the host quiet, at most `ULEN + 1` sequencer steps clear `BUSY` or stop at an
unwritten read, whatever the micro-program. This rests on two choices of the model that the log calls unsafe for claims of
termination: with nothing on the agenda the sequencer steps (log entry 1), and the engine answers within the step that
asks it (log entry 6). -/
def Obligations.CommandsEndInBoundedSteps : Prop :=
  ∀ s : State, s.Inv → s.busy = true → s.agenda = [] →
    ∃ k ≤ s.params.ulen + 1,
      (∃ t, runSteps k s = .next t ∧ t.busy = false) ∨ (∃ b, runSteps k s = .fault (.unwrittenRead b))

/-- A host that keeps the protocol sees the synchronous call: between sequencer steps it only loads `STATUS`, and the
core then ends as it does with the host quiet, after as many sequencer steps. -/
def Obligations.ProtocolHostDoesNotDisturb : Prop :=
  ∀ (s : State) (ts : List Turn), (∀ u ∈ ts, protocolTurn s.params u = true) →
    insideOf (runSteps ts.length { s with agenda := ts }) =
      insideOf (runSteps (sequencerTurns ts) { s with agenda := [] })
end

