-- ==== Sys2Proof/Laws/State.lean ====
section
/-!
SUPPORT. One lemma for each field under each update of the state, so that no proof unfolds a record update; and what the
buffer selectors read after an update.
-/

namespace Sys2Proof.Machine

namespace State

variable (s : State)

/-! ### retire -/

@[simp] theorem retire_params : s.retire.params = s.params := rfl
@[simp] theorem retire_life : s.retire.life = s.life := rfl
@[simp] theorem retire_inp : s.retire.inp = s.inp := rfl
@[simp] theorem retire_work : s.retire.work = s.work := rfl
@[simp] theorem retire_re : s.retire.re = s.re := rfl
@[simp] theorem retire_im : s.retire.im = s.im := rfl
@[simp] theorem retire_acc : s.retire.acc = s.acc := rfl
@[simp] theorem retire_out : s.retire.out = s.out := rfl
@[simp] theorem retire_hann : s.retire.hann = s.hann := rfl
@[simp] theorem retire_pcoef : s.retire.pcoef = s.pcoef := rfl
@[simp] theorem retire_fin : s.retire.fin = s.fin := rfl
@[simp] theorem retire_fout : s.retire.fout = s.fout := rfl
@[simp] theorem retire_upc : s.retire.upc = s.upc + 1 := rfl
@[simp] theorem retire_busy : s.retire.busy = s.busy := rfl
@[simp] theorem retire_done : s.retire.done = s.done := rfl
@[simp] theorem retire_ovr : s.retire.ovr = s.ovr := rfl
@[simp] theorem retire_err : s.retire.err = s.err := rfl
@[simp] theorem retire_logmode : s.retire.logmode = s.logmode := rfl
@[simp] theorem retire_logmodeL : s.retire.logmodeL = s.logmodeL := rfl
@[simp] theorem retire_cmdL : s.retire.cmdL = s.cmdL := rfl
@[simp] theorem retire_ctx : s.retire.ctx = s.ctx := rfl
@[simp] theorem retire_agenda : s.retire.agenda = s.agenda := rfl
@[simp] theorem retire_reply : s.retire.reply = s.reply := rfl
@[simp] theorem retire_port : s.retire.port = s.port := rfl
@[simp] theorem retire_draws : s.retire.draws = s.draws + 1 := rfl

/-! ### raise -/

@[simp] theorem raise_params (e : ErrCode) : (s.raise e).params = s.params := rfl
@[simp] theorem raise_life (e : ErrCode) : (s.raise e).life = s.life := rfl
@[simp] theorem raise_inp (e : ErrCode) : (s.raise e).inp = s.inp := rfl
@[simp] theorem raise_work (e : ErrCode) : (s.raise e).work = s.work := rfl
@[simp] theorem raise_re (e : ErrCode) : (s.raise e).re = s.re := rfl
@[simp] theorem raise_im (e : ErrCode) : (s.raise e).im = s.im := rfl
@[simp] theorem raise_acc (e : ErrCode) : (s.raise e).acc = s.acc := rfl
@[simp] theorem raise_out (e : ErrCode) : (s.raise e).out = s.out := rfl
@[simp] theorem raise_hann (e : ErrCode) : (s.raise e).hann = s.hann := rfl
@[simp] theorem raise_pcoef (e : ErrCode) : (s.raise e).pcoef = s.pcoef := rfl
@[simp] theorem raise_fin (e : ErrCode) : (s.raise e).fin = s.fin := rfl
@[simp] theorem raise_fout (e : ErrCode) : (s.raise e).fout = s.fout := rfl
@[simp] theorem raise_upc (e : ErrCode) : (s.raise e).upc = s.upc := rfl
@[simp] theorem raise_busy (e : ErrCode) : (s.raise e).busy = false := rfl
@[simp] theorem raise_done (e : ErrCode) : (s.raise e).done = false := rfl
@[simp] theorem raise_ovr (e : ErrCode) : (s.raise e).ovr = s.ovr := rfl
@[simp] theorem raise_err (e : ErrCode) : (s.raise e).err = e := rfl
@[simp] theorem raise_logmode (e : ErrCode) : (s.raise e).logmode = s.logmode := rfl
@[simp] theorem raise_logmodeL (e : ErrCode) : (s.raise e).logmodeL = s.logmodeL := rfl
@[simp] theorem raise_cmdL (e : ErrCode) : (s.raise e).cmdL = none := rfl
@[simp] theorem raise_ctx (e : ErrCode) : (s.raise e).ctx = s.ctx := rfl
@[simp] theorem raise_agenda (e : ErrCode) : (s.raise e).agenda = s.agenda := rfl
@[simp] theorem raise_reply (e : ErrCode) : (s.raise e).reply = s.reply := rfl
@[simp] theorem raise_port (e : ErrCode) : (s.raise e).port = s.port := rfl
@[simp] theorem raise_draws (e : ErrCode) : (s.raise e).draws = s.draws := rfl

/-! ### succeed -/

@[simp] theorem succeed_params : s.succeed.params = s.params := rfl
@[simp] theorem succeed_life : s.succeed.life = s.life := rfl
@[simp] theorem succeed_inp : s.succeed.inp = s.inp := rfl
@[simp] theorem succeed_work : s.succeed.work = s.work := rfl
@[simp] theorem succeed_re : s.succeed.re = s.re := rfl
@[simp] theorem succeed_im : s.succeed.im = s.im := rfl
@[simp] theorem succeed_acc : s.succeed.acc = s.acc := rfl
@[simp] theorem succeed_out : s.succeed.out = s.out := rfl
@[simp] theorem succeed_hann : s.succeed.hann = s.hann := rfl
@[simp] theorem succeed_pcoef : s.succeed.pcoef = s.pcoef := rfl
@[simp] theorem succeed_fin : s.succeed.fin = s.fin := rfl
@[simp] theorem succeed_fout : s.succeed.fout = s.fout := rfl
@[simp] theorem succeed_upc : s.succeed.upc = s.upc := rfl
@[simp] theorem succeed_busy : s.succeed.busy = false := rfl
@[simp] theorem succeed_done : s.succeed.done = true := rfl
@[simp] theorem succeed_ovr : s.succeed.ovr = s.ovr := rfl
@[simp] theorem succeed_err : s.succeed.err = .noError := rfl
@[simp] theorem succeed_logmode : s.succeed.logmode = s.logmode := rfl
@[simp] theorem succeed_logmodeL : s.succeed.logmodeL = s.logmodeL := rfl
@[simp] theorem succeed_cmdL : s.succeed.cmdL = none := rfl
@[simp] theorem succeed_ctx : s.succeed.ctx = s.ctx := rfl
@[simp] theorem succeed_agenda : s.succeed.agenda = s.agenda := rfl
@[simp] theorem succeed_reply : s.succeed.reply = s.reply := rfl
@[simp] theorem succeed_port : s.succeed.port = s.port := rfl
@[simp] theorem succeed_draws : s.succeed.draws = s.draws := rfl

/-! ### accept -/

@[simp] theorem accept_params (c : Command) : (s.accept c).params = s.params := rfl
@[simp] theorem accept_life (c : Command) : (s.accept c).life = s.life := rfl
@[simp] theorem accept_inp (c : Command) : (s.accept c).inp = s.inp := rfl
@[simp] theorem accept_work (c : Command) : (s.accept c).work = s.work := rfl
@[simp] theorem accept_re (c : Command) : (s.accept c).re = s.re := rfl
@[simp] theorem accept_im (c : Command) : (s.accept c).im = s.im := rfl
@[simp] theorem accept_acc (c : Command) : (s.accept c).acc = s.acc := rfl
@[simp] theorem accept_out (c : Command) : (s.accept c).out = s.out := rfl
@[simp] theorem accept_hann (c : Command) : (s.accept c).hann = s.hann := rfl
@[simp] theorem accept_pcoef (c : Command) : (s.accept c).pcoef = s.pcoef := rfl
@[simp] theorem accept_fin (c : Command) : (s.accept c).fin = s.fin := rfl
@[simp] theorem accept_fout (c : Command) : (s.accept c).fout = s.fout := rfl
@[simp] theorem accept_upc (c : Command) : (s.accept c).upc = s.upc := rfl
@[simp] theorem accept_busy (c : Command) : (s.accept c).busy = true := rfl
@[simp] theorem accept_done (c : Command) : (s.accept c).done = false := rfl
@[simp] theorem accept_ovr (c : Command) : (s.accept c).ovr = false := rfl
@[simp] theorem accept_err (c : Command) : (s.accept c).err = .noError := rfl
@[simp] theorem accept_logmode (c : Command) : (s.accept c).logmode = s.logmode := rfl
@[simp] theorem accept_logmodeL (c : Command) : (s.accept c).logmodeL = s.logmodeL := rfl
@[simp] theorem accept_cmdL (c : Command) : (s.accept c).cmdL = some c := rfl
@[simp] theorem accept_ctx (c : Command) : (s.accept c).ctx = s.ctx := rfl
@[simp] theorem accept_agenda (c : Command) : (s.accept c).agenda = s.agenda := rfl
@[simp] theorem accept_reply (c : Command) : (s.accept c).reply = s.reply := rfl
@[simp] theorem accept_port (c : Command) : (s.accept c).port = s.port := rfl
@[simp] theorem accept_draws (c : Command) : (s.accept c).draws = s.draws := rfl

/-! ### reject -/

@[simp] theorem reject_params (e : ErrCode) : (s.reject e).params = s.params := rfl
@[simp] theorem reject_life (e : ErrCode) : (s.reject e).life = s.life := rfl
@[simp] theorem reject_inp (e : ErrCode) : (s.reject e).inp = s.inp := rfl
@[simp] theorem reject_work (e : ErrCode) : (s.reject e).work = s.work := rfl
@[simp] theorem reject_re (e : ErrCode) : (s.reject e).re = s.re := rfl
@[simp] theorem reject_im (e : ErrCode) : (s.reject e).im = s.im := rfl
@[simp] theorem reject_acc (e : ErrCode) : (s.reject e).acc = s.acc := rfl
@[simp] theorem reject_out (e : ErrCode) : (s.reject e).out = s.out := rfl
@[simp] theorem reject_hann (e : ErrCode) : (s.reject e).hann = s.hann := rfl
@[simp] theorem reject_pcoef (e : ErrCode) : (s.reject e).pcoef = s.pcoef := rfl
@[simp] theorem reject_fin (e : ErrCode) : (s.reject e).fin = s.fin := rfl
@[simp] theorem reject_fout (e : ErrCode) : (s.reject e).fout = s.fout := rfl
@[simp] theorem reject_upc (e : ErrCode) : (s.reject e).upc = s.upc := rfl
@[simp] theorem reject_busy (e : ErrCode) : (s.reject e).busy = s.busy := rfl
@[simp] theorem reject_done (e : ErrCode) : (s.reject e).done = false := rfl
@[simp] theorem reject_ovr (e : ErrCode) : (s.reject e).ovr = s.ovr := rfl
@[simp] theorem reject_err (e : ErrCode) : (s.reject e).err = e := rfl
@[simp] theorem reject_logmode (e : ErrCode) : (s.reject e).logmode = s.logmode := rfl
@[simp] theorem reject_logmodeL (e : ErrCode) : (s.reject e).logmodeL = s.logmodeL := rfl
@[simp] theorem reject_cmdL (e : ErrCode) : (s.reject e).cmdL = s.cmdL := rfl
@[simp] theorem reject_ctx (e : ErrCode) : (s.reject e).ctx = s.ctx := rfl
@[simp] theorem reject_agenda (e : ErrCode) : (s.reject e).agenda = s.agenda := rfl
@[simp] theorem reject_reply (e : ErrCode) : (s.reject e).reply = s.reply := rfl
@[simp] theorem reject_port (e : ErrCode) : (s.reject e).port = s.port := rfl
@[simp] theorem reject_draws (e : ErrCode) : (s.reject e).draws = s.draws := rfl

/-! ### overrun -/

@[simp] theorem overrun_params : s.overrun.params = s.params := rfl
@[simp] theorem overrun_life : s.overrun.life = s.life := rfl
@[simp] theorem overrun_inp : s.overrun.inp = s.inp := rfl
@[simp] theorem overrun_work : s.overrun.work = s.work := rfl
@[simp] theorem overrun_re : s.overrun.re = s.re := rfl
@[simp] theorem overrun_im : s.overrun.im = s.im := rfl
@[simp] theorem overrun_acc : s.overrun.acc = s.acc := rfl
@[simp] theorem overrun_out : s.overrun.out = s.out := rfl
@[simp] theorem overrun_hann : s.overrun.hann = s.hann := rfl
@[simp] theorem overrun_pcoef : s.overrun.pcoef = s.pcoef := rfl
@[simp] theorem overrun_fin : s.overrun.fin = s.fin := rfl
@[simp] theorem overrun_fout : s.overrun.fout = s.fout := rfl
@[simp] theorem overrun_upc : s.overrun.upc = s.upc := rfl
@[simp] theorem overrun_busy : s.overrun.busy = s.busy := rfl
@[simp] theorem overrun_done : s.overrun.done = s.done := rfl
@[simp] theorem overrun_ovr : s.overrun.ovr = true := rfl
@[simp] theorem overrun_err : s.overrun.err = s.err := rfl
@[simp] theorem overrun_logmode : s.overrun.logmode = s.logmode := rfl
@[simp] theorem overrun_logmodeL : s.overrun.logmodeL = s.logmodeL := rfl
@[simp] theorem overrun_cmdL : s.overrun.cmdL = s.cmdL := rfl
@[simp] theorem overrun_ctx : s.overrun.ctx = s.ctx := rfl
@[simp] theorem overrun_agenda : s.overrun.agenda = s.agenda := rfl
@[simp] theorem overrun_reply : s.overrun.reply = s.reply := rfl
@[simp] theorem overrun_port : s.overrun.port = s.port := rfl
@[simp] theorem overrun_draws : s.overrun.draws = s.draws := rfl

/-! ### storeCtrl -/

@[simp] theorem storeCtrl_params (v : Word) : (s.storeCtrl v).params = s.params := rfl
@[simp] theorem storeCtrl_life (v : Word) : (s.storeCtrl v).life = s.life := rfl
@[simp] theorem storeCtrl_inp (v : Word) : (s.storeCtrl v).inp = s.inp := rfl
@[simp] theorem storeCtrl_work (v : Word) : (s.storeCtrl v).work = s.work := rfl
@[simp] theorem storeCtrl_re (v : Word) : (s.storeCtrl v).re = s.re := rfl
@[simp] theorem storeCtrl_im (v : Word) : (s.storeCtrl v).im = s.im := rfl
@[simp] theorem storeCtrl_acc (v : Word) : (s.storeCtrl v).acc = s.acc := rfl
@[simp] theorem storeCtrl_out (v : Word) : (s.storeCtrl v).out = s.out := rfl
@[simp] theorem storeCtrl_hann (v : Word) : (s.storeCtrl v).hann = s.hann := rfl
@[simp] theorem storeCtrl_pcoef (v : Word) : (s.storeCtrl v).pcoef = s.pcoef := rfl
@[simp] theorem storeCtrl_fin (v : Word) : (s.storeCtrl v).fin = s.fin := rfl
@[simp] theorem storeCtrl_fout (v : Word) : (s.storeCtrl v).fout = s.fout := rfl
@[simp] theorem storeCtrl_upc (v : Word) : (s.storeCtrl v).upc = s.upc := rfl
@[simp] theorem storeCtrl_busy (v : Word) : (s.storeCtrl v).busy = s.busy := rfl
@[simp] theorem storeCtrl_done (v : Word) : (s.storeCtrl v).done = s.done := rfl
@[simp] theorem storeCtrl_ovr (v : Word) : (s.storeCtrl v).ovr = s.ovr := rfl
@[simp] theorem storeCtrl_err (v : Word) : (s.storeCtrl v).err = s.err := rfl
@[simp] theorem storeCtrl_logmode (v : Word) : (s.storeCtrl v).logmode = v.getLsbD 0 := rfl
@[simp] theorem storeCtrl_logmodeL (v : Word) : (s.storeCtrl v).logmodeL = s.logmodeL := rfl
@[simp] theorem storeCtrl_cmdL (v : Word) : (s.storeCtrl v).cmdL = s.cmdL := rfl
@[simp] theorem storeCtrl_ctx (v : Word) : (s.storeCtrl v).ctx = s.ctx := rfl
@[simp] theorem storeCtrl_agenda (v : Word) : (s.storeCtrl v).agenda = s.agenda := rfl
@[simp] theorem storeCtrl_reply (v : Word) : (s.storeCtrl v).reply = s.reply := rfl
@[simp] theorem storeCtrl_port (v : Word) : (s.storeCtrl v).port = s.port := rfl
@[simp] theorem storeCtrl_draws (v : Word) : (s.storeCtrl v).draws = s.draws := rfl

/-! ### answer -/

@[simp] theorem answer_params (r : Reply) : (s.answer r).params = s.params := rfl
@[simp] theorem answer_life (r : Reply) : (s.answer r).life = s.life := rfl
@[simp] theorem answer_inp (r : Reply) : (s.answer r).inp = s.inp := rfl
@[simp] theorem answer_work (r : Reply) : (s.answer r).work = s.work := rfl
@[simp] theorem answer_re (r : Reply) : (s.answer r).re = s.re := rfl
@[simp] theorem answer_im (r : Reply) : (s.answer r).im = s.im := rfl
@[simp] theorem answer_acc (r : Reply) : (s.answer r).acc = s.acc := rfl
@[simp] theorem answer_out (r : Reply) : (s.answer r).out = s.out := rfl
@[simp] theorem answer_hann (r : Reply) : (s.answer r).hann = s.hann := rfl
@[simp] theorem answer_pcoef (r : Reply) : (s.answer r).pcoef = s.pcoef := rfl
@[simp] theorem answer_fin (r : Reply) : (s.answer r).fin = s.fin := rfl
@[simp] theorem answer_fout (r : Reply) : (s.answer r).fout = s.fout := rfl
@[simp] theorem answer_upc (r : Reply) : (s.answer r).upc = s.upc := rfl
@[simp] theorem answer_busy (r : Reply) : (s.answer r).busy = s.busy := rfl
@[simp] theorem answer_done (r : Reply) : (s.answer r).done = s.done := rfl
@[simp] theorem answer_ovr (r : Reply) : (s.answer r).ovr = s.ovr := rfl
@[simp] theorem answer_err (r : Reply) : (s.answer r).err = s.err := rfl
@[simp] theorem answer_logmode (r : Reply) : (s.answer r).logmode = s.logmode := rfl
@[simp] theorem answer_logmodeL (r : Reply) : (s.answer r).logmodeL = s.logmodeL := rfl
@[simp] theorem answer_cmdL (r : Reply) : (s.answer r).cmdL = s.cmdL := rfl
@[simp] theorem answer_ctx (r : Reply) : (s.answer r).ctx = s.ctx := rfl
@[simp] theorem answer_agenda (r : Reply) : (s.answer r).agenda = s.agenda := rfl
@[simp] theorem answer_reply (r : Reply) : (s.answer r).reply = some r := rfl
@[simp] theorem answer_port (r : Reply) : (s.answer r).port = s.port := rfl
@[simp] theorem answer_draws (r : Reply) : (s.answer r).draws = s.draws := rfl

/-! ### releaseAll -/

@[simp] theorem releaseAll_params : s.releaseAll.params = s.params := rfl
@[simp] theorem releaseAll_life : s.releaseAll.life = s.life := rfl
@[simp] theorem releaseAll_inp : s.releaseAll.inp = s.inp := rfl
@[simp] theorem releaseAll_work : s.releaseAll.work = clearBuf s.work := rfl
@[simp] theorem releaseAll_re : s.releaseAll.re = clearBuf s.re := rfl
@[simp] theorem releaseAll_im : s.releaseAll.im = clearBuf s.im := rfl
@[simp] theorem releaseAll_acc : s.releaseAll.acc = clearBuf s.acc := rfl
@[simp] theorem releaseAll_out : s.releaseAll.out = s.out := rfl
@[simp] theorem releaseAll_hann : s.releaseAll.hann = clearBuf s.hann := rfl
@[simp] theorem releaseAll_pcoef : s.releaseAll.pcoef = clearBuf s.pcoef := rfl
@[simp] theorem releaseAll_fin : s.releaseAll.fin = clearBuf s.fin := rfl
@[simp] theorem releaseAll_fout : s.releaseAll.fout = clearBuf s.fout := rfl
@[simp] theorem releaseAll_upc : s.releaseAll.upc = s.upc := rfl
@[simp] theorem releaseAll_busy : s.releaseAll.busy = s.busy := rfl
@[simp] theorem releaseAll_done : s.releaseAll.done = s.done := rfl
@[simp] theorem releaseAll_ovr : s.releaseAll.ovr = s.ovr := rfl
@[simp] theorem releaseAll_err : s.releaseAll.err = s.err := rfl
@[simp] theorem releaseAll_logmode : s.releaseAll.logmode = s.logmode := rfl
@[simp] theorem releaseAll_logmodeL : s.releaseAll.logmodeL = s.logmodeL := rfl
@[simp] theorem releaseAll_cmdL : s.releaseAll.cmdL = s.cmdL := rfl
@[simp] theorem releaseAll_ctx : s.releaseAll.ctx = none := rfl
@[simp] theorem releaseAll_agenda : s.releaseAll.agenda = s.agenda := rfl
@[simp] theorem releaseAll_reply : s.releaseAll.reply = s.reply := rfl
@[simp] theorem releaseAll_port : s.releaseAll.port = s.port := rfl
@[simp] theorem releaseAll_draws : s.releaseAll.draws = s.draws := rfl

/-! ### setReal and setCplx -/

@[simp] theorem setReal_params (b : BufId) (c : Buffer F32) : (s.setReal b c).params = s.params := by cases b <;> rfl
@[simp] theorem setReal_life (b : BufId) (c : Buffer F32) : (s.setReal b c).life = s.life := by cases b <;> rfl
@[simp] theorem setReal_fin (b : BufId) (c : Buffer F32) : (s.setReal b c).fin = s.fin := by cases b <;> rfl
@[simp] theorem setReal_fout (b : BufId) (c : Buffer F32) : (s.setReal b c).fout = s.fout := by cases b <;> rfl
@[simp] theorem setReal_upc (b : BufId) (c : Buffer F32) : (s.setReal b c).upc = s.upc := by cases b <;> rfl
@[simp] theorem setReal_busy (b : BufId) (c : Buffer F32) : (s.setReal b c).busy = s.busy := by cases b <;> rfl
@[simp] theorem setReal_done (b : BufId) (c : Buffer F32) : (s.setReal b c).done = s.done := by cases b <;> rfl
@[simp] theorem setReal_ovr (b : BufId) (c : Buffer F32) : (s.setReal b c).ovr = s.ovr := by cases b <;> rfl
@[simp] theorem setReal_err (b : BufId) (c : Buffer F32) : (s.setReal b c).err = s.err := by cases b <;> rfl
@[simp] theorem setReal_logmode (b : BufId) (c : Buffer F32) : (s.setReal b c).logmode = s.logmode := by cases b <;> rfl
@[simp] theorem setReal_logmodeL (b : BufId) (c : Buffer F32) : (s.setReal b c).logmodeL = s.logmodeL := by cases b <;> rfl
@[simp] theorem setReal_cmdL (b : BufId) (c : Buffer F32) : (s.setReal b c).cmdL = s.cmdL := by cases b <;> rfl
@[simp] theorem setReal_ctx (b : BufId) (c : Buffer F32) : (s.setReal b c).ctx = s.ctx := by cases b <;> rfl
@[simp] theorem setReal_agenda (b : BufId) (c : Buffer F32) : (s.setReal b c).agenda = s.agenda := by cases b <;> rfl
@[simp] theorem setReal_reply (b : BufId) (c : Buffer F32) : (s.setReal b c).reply = s.reply := by cases b <;> rfl
@[simp] theorem setReal_port (b : BufId) (c : Buffer F32) : (s.setReal b c).port = s.port := by cases b <;> rfl
@[simp] theorem setReal_draws (b : BufId) (c : Buffer F32) : (s.setReal b c).draws = s.draws := by cases b <;> rfl
@[simp] theorem setCplx_params (b : BufId) (c : Buffer C32) : (s.setCplx b c).params = s.params := by cases b <;> rfl
@[simp] theorem setCplx_life (b : BufId) (c : Buffer C32) : (s.setCplx b c).life = s.life := by cases b <;> rfl
@[simp] theorem setCplx_inp (b : BufId) (c : Buffer C32) : (s.setCplx b c).inp = s.inp := by cases b <;> rfl
@[simp] theorem setCplx_work (b : BufId) (c : Buffer C32) : (s.setCplx b c).work = s.work := by cases b <;> rfl
@[simp] theorem setCplx_re (b : BufId) (c : Buffer C32) : (s.setCplx b c).re = s.re := by cases b <;> rfl
@[simp] theorem setCplx_im (b : BufId) (c : Buffer C32) : (s.setCplx b c).im = s.im := by cases b <;> rfl
@[simp] theorem setCplx_acc (b : BufId) (c : Buffer C32) : (s.setCplx b c).acc = s.acc := by cases b <;> rfl
@[simp] theorem setCplx_out (b : BufId) (c : Buffer C32) : (s.setCplx b c).out = s.out := by cases b <;> rfl
@[simp] theorem setCplx_hann (b : BufId) (c : Buffer C32) : (s.setCplx b c).hann = s.hann := by cases b <;> rfl
@[simp] theorem setCplx_pcoef (b : BufId) (c : Buffer C32) : (s.setCplx b c).pcoef = s.pcoef := by cases b <;> rfl
@[simp] theorem setCplx_upc (b : BufId) (c : Buffer C32) : (s.setCplx b c).upc = s.upc := by cases b <;> rfl
@[simp] theorem setCplx_busy (b : BufId) (c : Buffer C32) : (s.setCplx b c).busy = s.busy := by cases b <;> rfl
@[simp] theorem setCplx_done (b : BufId) (c : Buffer C32) : (s.setCplx b c).done = s.done := by cases b <;> rfl
@[simp] theorem setCplx_ovr (b : BufId) (c : Buffer C32) : (s.setCplx b c).ovr = s.ovr := by cases b <;> rfl
@[simp] theorem setCplx_err (b : BufId) (c : Buffer C32) : (s.setCplx b c).err = s.err := by cases b <;> rfl
@[simp] theorem setCplx_logmode (b : BufId) (c : Buffer C32) : (s.setCplx b c).logmode = s.logmode := by cases b <;> rfl
@[simp] theorem setCplx_logmodeL (b : BufId) (c : Buffer C32) : (s.setCplx b c).logmodeL = s.logmodeL := by cases b <;> rfl
@[simp] theorem setCplx_cmdL (b : BufId) (c : Buffer C32) : (s.setCplx b c).cmdL = s.cmdL := by cases b <;> rfl
@[simp] theorem setCplx_ctx (b : BufId) (c : Buffer C32) : (s.setCplx b c).ctx = s.ctx := by cases b <;> rfl
@[simp] theorem setCplx_agenda (b : BufId) (c : Buffer C32) : (s.setCplx b c).agenda = s.agenda := by cases b <;> rfl
@[simp] theorem setCplx_reply (b : BufId) (c : Buffer C32) : (s.setCplx b c).reply = s.reply := by cases b <;> rfl
@[simp] theorem setCplx_port (b : BufId) (c : Buffer C32) : (s.setCplx b c).port = s.port := by cases b <;> rfl
@[simp] theorem setCplx_draws (b : BufId) (c : Buffer C32) : (s.setCplx b c).draws = s.draws := by cases b <;> rfl

/-! ### What the selectors read after an update -/

theorem realBuf_setReal_self (b : BufId) (c : Buffer F32) (h : b.isReal = true) : (s.setReal b c).realBuf b = c := by
  cases b <;> first | rfl | cases h

theorem realBuf_setReal_ne (b b' : BufId) (c : Buffer F32) (h : b' ≠ b) :
    (s.setReal b c).realBuf b' = s.realBuf b' := by
  cases b <;> cases b' <;> first | rfl | exact absurd rfl h

@[simp] theorem cplxBuf_setReal (b b' : BufId) (c : Buffer F32) : (s.setReal b c).cplxBuf b' = s.cplxBuf b' := by
  cases b <;> cases b' <;> rfl

theorem cplxBuf_setCplx_self (b : BufId) (c : Buffer C32) (h : b.isComplex = true) :
    (s.setCplx b c).cplxBuf b = c := by
  cases b <;> first | rfl | cases h

theorem cplxBuf_setCplx_ne (b b' : BufId) (c : Buffer C32) (h : b' ≠ b) :
    (s.setCplx b c).cplxBuf b' = s.cplxBuf b' := by
  cases b <;> cases b' <;> first | rfl | exact absurd rfl h

@[simp] theorem realBuf_setCplx (b b' : BufId) (c : Buffer C32) : (s.setCplx b c).realBuf b' = s.realBuf b' := by
  cases b <;> cases b' <;> rfl

@[simp] theorem realBuf_retire (b : BufId) : s.retire.realBuf b = s.realBuf b := by cases b <;> rfl
@[simp] theorem cplxBuf_retire (b : BufId) : s.retire.cplxBuf b = s.cplxBuf b := by cases b <;> rfl
@[simp] theorem realBuf_raise (e : ErrCode) (b : BufId) : (s.raise e).realBuf b = s.realBuf b := by cases b <;> rfl
@[simp] theorem cplxBuf_raise (e : ErrCode) (b : BufId) : (s.raise e).cplxBuf b = s.cplxBuf b := by cases b <;> rfl
@[simp] theorem realBuf_succeed (b : BufId) : s.succeed.realBuf b = s.realBuf b := by cases b <;> rfl
@[simp] theorem cplxBuf_succeed (b : BufId) : s.succeed.cplxBuf b = s.cplxBuf b := by cases b <;> rfl
@[simp] theorem realBuf_accept (c : Command) (b : BufId) : (s.accept c).realBuf b = s.realBuf b := by cases b <;> rfl
@[simp] theorem cplxBuf_accept (c : Command) (b : BufId) : (s.accept c).cplxBuf b = s.cplxBuf b := by cases b <;> rfl
@[simp] theorem realBuf_reject (e : ErrCode) (b : BufId) : (s.reject e).realBuf b = s.realBuf b := by cases b <;> rfl
@[simp] theorem cplxBuf_reject (e : ErrCode) (b : BufId) : (s.reject e).cplxBuf b = s.cplxBuf b := by cases b <;> rfl
@[simp] theorem realBuf_overrun (b : BufId) : s.overrun.realBuf b = s.realBuf b := by cases b <;> rfl
@[simp] theorem cplxBuf_overrun (b : BufId) : s.overrun.cplxBuf b = s.cplxBuf b := by cases b <;> rfl
@[simp] theorem realBuf_storeCtrl (v : Word) (b : BufId) : (s.storeCtrl v).realBuf b = s.realBuf b := by cases b <;> rfl
@[simp] theorem cplxBuf_storeCtrl (v : Word) (b : BufId) : (s.storeCtrl v).cplxBuf b = s.cplxBuf b := by cases b <;> rfl
@[simp] theorem realBuf_answer (r : Reply) (b : BufId) : (s.answer r).realBuf b = s.realBuf b := by cases b <;> rfl
@[simp] theorem cplxBuf_answer (r : Reply) (b : BufId) : (s.answer r).cplxBuf b = s.cplxBuf b := by cases b <;> rfl

/-- A real buffer's selector gives nothing for a complex buffer, and the other way round. -/
theorem realBuf_eq_nil_of_isComplex (b : BufId) (h : b.isComplex = true) : s.realBuf b = [] := by
  cases b <;> first | rfl | cases h

theorem cplxBuf_eq_nil_of_isReal (b : BufId) (h : b.isReal = true) : s.cplxBuf b = [] := by
  cases b <;> first | rfl | cases h

end State

/-- A writable real buffer is a real buffer. -/
theorem isReal_of_isRealW {b : BufId} (h : b.isRealW = true) : b.isReal = true := by
  cases b <;> first | rfl | cases h

end Sys2Proof.Machine
end

