-- ==== Sys2Proof/Laws/Memory.lean ====
section
/-!
SUPPORT. The laws of cells and lanes: a read after a write gives what was written, a write leaves every other element
alone, and every memory operation keeps the canonical form.
-/

namespace Sys2Proof.Machine

variable {α β γ : Type}

/-! ### Cells -/

@[simp] theorem length_setCell (b : Buffer α) (i : Nat) (v : α) : (setCell b i v).length = b.length := by
  simp [setCell]

@[simp] theorem length_clearBuf (b : Buffer α) : (clearBuf b).length = b.length := by simp [clearBuf]

theorem cellAt_setCell_self (b : Buffer α) (i : Nat) (v : α) (h : i < b.length) :
    cellAt (setCell b i v) i = some v := by
  simp [cellAt, setCell, List.getD_eq_getElem?_getD, h]

theorem cellAt_setCell_ne (b : Buffer α) (i j : Nat) (v : α) (h : j ≠ i) :
    cellAt (setCell b i v) j = cellAt b j := by
  simp [cellAt, setCell, List.getD_eq_getElem?_getD, h.symm]

@[simp] theorem cellAt_clearBuf (b : Buffer α) (i : Nat) : cellAt (clearBuf b) i = none := by
  simp only [cellAt, clearBuf, List.getD_eq_getElem?_getD, List.getElem?_replicate]
  split <;> rfl

theorem vacant_clearBuf (b : Buffer α) : Vacant (clearBuf b) := by
  intro c hc
  rw [clearBuf] at hc
  rw [(List.mem_replicate.mp hc).2]
  rfl

theorem vacant_replicate (n : Nat) : Vacant (List.replicate n (none : Cell α)) := by
  intro c hc
  rw [(List.mem_replicate.mp hc).2]
  rfl

/-! ### Reading lanes -/

/-- What a successful read of lanes says: as many values as lanes, and each is its element's. -/
theorem readLanes_some {b : Buffer α} {n : Nat} {xs : List α} (h : readLanes b n = some xs) :
    xs.length = n ∧ ∀ i (hi : i < xs.length), cellAt b i = some xs[i] := by
  induction n generalizing b xs with
  | zero =>
    cases b <;> simp only [readLanes, Option.some.injEq] at h <;> subst h <;> simp
  | succ n ih =>
    cases b with
    | nil => simp [readLanes] at h
    | cons c b =>
      cases c with
      | none => simp [readLanes] at h
      | some x =>
        obtain ⟨ys, hys, rfl⟩ := Option.map_eq_some_iff.mp h
        obtain ⟨hl, hc⟩ := ih hys
        refine ⟨by simp [hl], fun i hi => ?_⟩
        cases i with
        | zero => rfl
        | succ i => exact hc i (by simpa using hi)

/-- A read of lanes succeeds exactly when every one of them holds a value. -/
theorem readLanes_isSome {b : Buffer α} {n : Nat} : (readLanes b n).isSome = true ↔ Written b n := by
  constructor
  · intro h i hi
    obtain ⟨xs, hxs⟩ := Option.isSome_iff_exists.mp h
    obtain ⟨hl, hc⟩ := readLanes_some hxs
    rw [hc i (hl ▸ hi)]; rfl
  · intro h
    induction n generalizing b with
    | zero => cases b <;> rfl
    | succ n ih =>
      cases b with
      | nil => exact absurd (h 0 (Nat.succ_pos n)) (by simp [cellAt])
      | cons c b =>
        cases c with
        | none => exact absurd (h 0 (Nat.succ_pos n)) (by simp [cellAt])
        | some x =>
          have : (readLanes b n).isSome = true := ih fun i hi => h (i + 1) (Nat.succ_lt_succ hi)
          simpa [readLanes] using this

theorem exists_readLanes {b : Buffer α} {n : Nat} (h : Written b n) : ∃ xs, readLanes b n = some xs :=
  Option.isSome_iff_exists.mp (readLanes_isSome.mpr h)

theorem readLanes_eq_none {b : Buffer α} {n : Nat} (h : ¬ Written b n) : readLanes b n = none := by
  cases hr : readLanes b n with
  | none => rfl
  | some xs => exact absurd (readLanes_isSome.mp (by simp [hr])) h

/-! ### Writing lanes -/

@[simp] theorem length_writeLanes (vs : List α) (b : Buffer α) : (writeLanes vs b).length = b.length := by
  induction vs generalizing b with
  | nil => rfl
  | cons v vs ih => cases b <;> simp [writeLanes, ih]

theorem cellAt_writeLanes_lt (vs : List α) (b : Buffer α) (i : Nat) (hi : i < vs.length) (hb : i < b.length) :
    cellAt (writeLanes vs b) i = some vs[i] := by
  induction vs generalizing b i with
  | nil => simp at hi
  | cons v vs ih =>
    cases b with
    | nil => simp at hb
    | cons c b =>
      cases i with
      | zero => rfl
      | succ i => exact ih b i (by simpa using hi) (by simpa using hb)

theorem cellAt_writeLanes_ge (vs : List α) (b : Buffer α) (i : Nat) (hi : vs.length ≤ i) :
    cellAt (writeLanes vs b) i = cellAt b i := by
  induction vs generalizing b i with
  | nil => rfl
  | cons v vs ih =>
    cases b with
    | nil => rfl
    | cons c b =>
      cases i with
      | zero => simp at hi
      | succ i => exact ih b i (by simpa using hi)

/-! ### Lane functions -/

@[simp] theorem length_lanes1 (f : Nat → α → β) (xs : List α) : (lanes1 f xs).length = xs.length := by
  simp [lanes1]

theorem getElem_lanes1 (f : Nat → α → β) (xs : List α) (i : Nat) (h : i < (lanes1 f xs).length) :
    (lanes1 f xs)[i] = f i (xs[i]'(by simpa using h)) := by
  simp [lanes1]

@[simp] theorem length_lanes2 (f : Nat → α → β → γ) (xs : List α) (ys : List β) :
    (lanes2 f xs ys).length = min xs.length ys.length := by
  simp [lanes2]

theorem getElem_lanes2 (f : Nat → α → β → γ) (xs : List α) (ys : List β) (i : Nat)
    (h : i < (lanes2 f xs ys).length) :
    (lanes2 f xs ys)[i] = f i (xs[i]'(by simp at h; omega)) (ys[i]'(by simp at h; omega)) := by
  simp [lanes2]

/-! ### The canonical form (R22) -/

theorem length_realBuf {s : State} (h : Memory.wf s) {b : BufId} (hb : b.isReal = true) :
    (s.realBuf b).length = s.params.bufLen b := by
  obtain ⟨h1, h2, h3, h4, h5, h6, h7, h8, -, -⟩ := h
  cases b <;> first | assumption | cases hb

theorem length_cplxBuf {s : State} (h : Memory.wf s) {b : BufId} (hb : b.isComplex = true) :
    (s.cplxBuf b).length = s.params.bufLen b := by
  obtain ⟨-, -, -, -, -, -, -, -, h9, h10⟩ := h
  cases b <;> first | assumption | cases hb

theorem wf_setReal {s : State} (h : Memory.wf s) (b : BufId) (c : Buffer F32)
    (hc : c.length = (s.realBuf b).length) : Memory.wf (s.setReal b c) := by
  cases b <;> simp_all [Memory.wf, State.setReal, State.realBuf]

theorem wf_setCplx {s : State} (h : Memory.wf s) (b : BufId) (c : Buffer C32)
    (hc : c.length = (s.cplxBuf b).length) : Memory.wf (s.setCplx b c) := by
  cases b <;> simp_all [Memory.wf, State.setCplx, State.cplxBuf]

theorem wf_storeReal {s : State} (h : Memory.wf s) (b : BufId) (vs : List F32) : Memory.wf (s.storeReal b vs) :=
  wf_setReal h b _ (length_writeLanes vs _)

theorem wf_storeCplx {s : State} (h : Memory.wf s) (b : BufId) (vs : List C32) : Memory.wf (s.storeCplx b vs) :=
  wf_setCplx h b _ (length_writeLanes vs _)

theorem wf_releaseAll {s : State} (h : Memory.wf s) : Memory.wf s.releaseAll := by
  simpa [Memory.wf] using h

theorem wf_hostStore {s : State} (h : Memory.wf s) (n : Nat) (v : F32) :
    Memory.wf { s with inp := setCell s.inp n v } := by
  simpa [Memory.wf] using h

theorem wf_transformFailure {s : State} (h : Memory.wf s) : Memory.wf s.transformFailure := by
  simpa [Memory.wf, State.transformFailure, State.raise] using h

theorem wf_constructed {s : State} (h : Memory.wf s) (hp : s.params.wf) (c : Ctx) : Memory.wf (s.constructed c) := by
  obtain ⟨h1, h2, h3, h4, h5, h6, -, -, h9, h10⟩ := h
  exact ⟨h1, h2, h3, h4, h5, h6, by simpa [State.constructed] using hp.2.2.2.1, by simp [State.constructed], h9, h10⟩

theorem wf_powerOn (p : Params) : Memory.wf (State.powerOn p) := by
  simp [Memory.wf, State.powerOn]

/-- Reset memory is in canonical form. -/
theorem wf_reset : Memory.wf State.reset := wf_powerOn _

end Sys2Proof.Machine
end

