-- ==== Sys2Proof/Laws/Operands.lean ====
section
/-!
SUPPORT. The classes of the machine's own check, in the terms of the operand table (R95, R104).
-/

namespace Sys2Proof.Machine

@[simp] theorem admits_real (b : BufId) : OperandClass.real.admits b = b.isReal := by
  cases b with
  | reserved k => revert k; decide
  | _ => rfl

@[simp] theorem admits_realW (b : BufId) : OperandClass.realW.admits b = b.isRealW := by
  cases b with
  | reserved k => revert k; decide
  | _ => rfl

@[simp] theorem admits_complex (b : BufId) : OperandClass.complex.admits b = b.isComplex := by
  cases b with
  | reserved k => revert k; decide
  | _ => rfl

@[simp] theorem admits_exactly (b c : BufId) : (OperandClass.exactly c).admits b = decide (b = c) := rfl

/-- An id is missing when it is neither a real nor a complex buffer (R104). -/
theorem missingBuf_eq (b : BufId) : missingBuf b = (!b.isReal && !b.isComplex) := by
  cases b with
  | reserved k => revert k; decide
  | _ => rfl

theorem missingBuf_iff (b : BufId) : missingBuf b = true ↔ b = .noBuf ∨ ∃ k, b = .reserved k := by
  cases b with
  | reserved k => exact ⟨fun _ => .inr ⟨k, rfl⟩, fun _ => by revert k; decide⟩
  | _ => simp [missingBuf, BufId.toBits]

end Sys2Proof.Machine
end

