-- ==== Sys2Proof/Laws/Ops.lean ====
section
/-!
SUPPORT. One lemma for each shared operation, saying all it can do: the check, the four lane shapes, the end of a
micro-op, and what any micro-op can come to.
-/

namespace Sys2Proof.Machine

variable {s t : State}

/-! ### The check -/

theorem checked_legal {i : Instr} (h : legalityFault s.params i = none) (body : Result) : s.checked i body = body := by
  simp [State.checked, h]

theorem checked_illegal {i : Instr} {e : ErrCode} (h : legalityFault s.params i = some e) (body : Result) :
    s.checked i body = .next (s.raise e) := by
  simp [State.checked, h]

/-- A checked micro-op either took a check fault or ran its body as a legal one. -/
theorem checked_cases (i : Instr) (body : Result) :
    (∃ e, legalityFault s.params i = some e ∧ s.checked i body = .next (s.raise e)) ∨
      (legalityFault s.params i = none ∧ s.checked i body = body) := by
  cases h : legalityFault s.params i with
  | some e => exact .inl ⟨e, rfl, checked_illegal h body⟩
  | none => exact .inr ⟨rfl, checked_legal h body⟩

/-- A legal micro-op's operand fields are of the classes its row asks for. -/
theorem admits_of_legal {p : Params} {i : Instr} (h : legalityFault p i = none) :
    ∀ u ∈ operandFields i, u.2.admits u.1 = true := by
  intro u hu
  by_contra hn
  have hany : (operandFields i).any (fun u => !u.2.admits u.1) = true :=
    List.any_eq_true.mpr ⟨u, hu, by simpa using hn⟩
  simp only [legalityFault, hany] at h
  split at h <;> simp at h

/-! ### The end of a micro-op -/

theorem control_storeReal (dst : BufId) (vs : List F32) : ControlSame s (s.storeReal dst vs) := by
  constructor <;> simp [State.storeReal]

theorem control_storeCplx (dst : BufId) (vs : List C32) : ControlSame s (s.storeCplx dst vs) := by
  constructor <;> simp [State.storeCplx]

/-- Everything a store of real lanes leaves alone. -/
theorem frame_storeReal {dst : BufId} (h : dst.isReal = true) (vs : List F32) :
    KernelFrame s (s.storeReal dst vs) dst vs.length where
  control := control_storeReal dst vs
  upc := by simp [State.storeReal]
  otherReal b hb := by simp [State.storeReal, State.realBuf_setReal_ne _ _ _ _ hb]
  otherCplx b _ := by simp [State.storeReal]
  beyondReal i hi := by
    simp [State.storeReal, State.realBuf_setReal_self _ _ _ h, cellAt_writeLanes_ge _ _ _ hi]
  beyondCplx i _ := by simp [State.storeReal]

/-- Everything a store of complex lanes leaves alone. -/
theorem frame_storeCplx {dst : BufId} (h : dst.isComplex = true) (vs : List C32) :
    KernelFrame s (s.storeCplx dst vs) dst vs.length where
  control := control_storeCplx dst vs
  upc := by simp [State.storeCplx]
  otherReal b _ := by simp [State.storeCplx]
  otherCplx b hb := by simp [State.storeCplx, State.cplxBuf_setCplx_ne _ _ _ _ hb]
  beyondReal i _ := by simp [State.storeCplx]
  beyondCplx i hi := by
    simp [State.storeCplx, State.cplxBuf_setCplx_self _ _ _ h, cellAt_writeLanes_ge _ _ _ hi]

theorem cell_storeReal (hm : Memory.wf s) {dst : BufId} (h : dst.isReal = true) (vs : List F32) (i : Nat)
    (hi : i < vs.length) (hl : vs.length ≤ s.params.bufLen dst) :
    cellAt ((s.storeReal dst vs).realBuf dst) i = some vs[i] := by
  have hb : i < (s.realBuf dst).length := by rw [length_realBuf hm h]; omega
  simp [State.storeReal, State.realBuf_setReal_self _ _ _ h, cellAt_writeLanes_lt _ _ _ hi hb]

theorem cell_storeCplx (hm : Memory.wf s) {dst : BufId} (h : dst.isComplex = true) (vs : List C32) (i : Nat)
    (hi : i < vs.length) (hl : vs.length ≤ s.params.bufLen dst) :
    cellAt ((s.storeCplx dst vs).cplxBuf dst) i = some vs[i] := by
  have hb : i < (s.cplxBuf dst).length := by rw [length_cplxBuf hm h]; omega
  simp [State.storeCplx, State.cplxBuf_setCplx_self _ _ _ h, cellAt_writeLanes_lt _ _ _ hi hb]

/-! ### The lane shapes: each completes when its source lanes are written, and writes the lane function -/

/-- One real source, real destination (R122). -/
theorem unary_spec (hm : Memory.wf s) {dst sa : BufId} {len : Nat} (f : Nat → F32 → F32) (hd : dst.isReal = true)
    (hl : len ≤ s.params.bufLen dst) (ha : Written (s.realBuf sa) len) :
    ∃ t, s.unary dst sa len f = .next t ∧ KernelFrame s t dst len ∧ t.port = s.port ∧
      ∀ i < len, ∀ x, cellAt (s.realBuf sa) i = some x → cellAt (t.realBuf dst) i = some (f i x) := by
  obtain ⟨xs, hxs⟩ := exists_readLanes ha
  obtain ⟨rfl, hc⟩ := readLanes_some hxs
  have hlen := length_lanes1 f xs
  refine ⟨s.storeReal dst (lanes1 f xs), by simp [State.unary, State.withLanes, hxs], ?_, by simp [State.storeReal],
    fun i hi x hx => ?_⟩
  · simpa [hlen] using frame_storeReal hd (lanes1 f xs)
  · have hx' : xs[i] = x := Option.some.inj ((hc i hi).symm.trans hx)
    rw [cell_storeReal hm hd _ i (by simpa using hi) (by simpa using hl), getElem_lanes1, hx']

/-- Two real sources, real destination (R122). -/
theorem binary_spec (hm : Memory.wf s) {dst sa sb : BufId} {len : Nat} (f : Nat → F32 → F32 → F32)
    (hd : dst.isReal = true) (hl : len ≤ s.params.bufLen dst) (ha : Written (s.realBuf sa) len)
    (hb : Written (s.realBuf sb) len) :
    ∃ t, s.binary dst sa sb len f = .next t ∧ KernelFrame s t dst len ∧ t.port = s.port ∧
      ∀ i < len, ∀ x y, cellAt (s.realBuf sa) i = some x → cellAt (s.realBuf sb) i = some y →
        cellAt (t.realBuf dst) i = some (f i x y) := by
  obtain ⟨xs, hxs⟩ := exists_readLanes ha
  obtain ⟨ys, hys⟩ := exists_readLanes hb
  obtain ⟨rfl, hc⟩ := readLanes_some hxs
  obtain ⟨hly, hd'⟩ := readLanes_some hys
  have hlen : (lanes2 f xs ys).length = xs.length := by simp [hly]
  refine ⟨s.storeReal dst (lanes2 f xs ys), by simp [State.binary, State.withLanes, hxs, hys], ?_,
    by simp [State.storeReal], fun i hi x y hx hy => ?_⟩
  · simpa only [hlen] using frame_storeReal hd (lanes2 f xs ys)
  · have hx' : xs[i] = x := Option.some.inj ((hc i hi).symm.trans hx)
    have hy' : ys[i] = y := Option.some.inj ((hd' i (by omega)).symm.trans hy)
    rw [cell_storeReal hm hd _ i (by omega) (by omega), getElem_lanes2, hx', hy']

/-- A real source, complex destination (R122). -/
theorem toComplex_spec (hm : Memory.wf s) {dst sa : BufId} {len : Nat} (f : F32 → C32) (hd : dst.isComplex = true)
    (hl : len ≤ s.params.bufLen dst) (ha : Written (s.realBuf sa) len) :
    ∃ t, s.toComplex dst sa len f = .next t ∧ KernelFrame s t dst len ∧ t.port = s.port ∧
      ∀ i < len, ∀ x, cellAt (s.realBuf sa) i = some x → cellAt (t.cplxBuf dst) i = some (f x) := by
  obtain ⟨xs, hxs⟩ := exists_readLanes ha
  obtain ⟨rfl, hc⟩ := readLanes_some hxs
  have hlen := length_lanes1 (fun _ x => f x) xs
  refine ⟨s.storeCplx dst (lanes1 (fun _ x => f x) xs), by simp [State.toComplex, State.withLanes, hxs], ?_,
    by simp [State.storeCplx], fun i hi x hx => ?_⟩
  · simpa [hlen] using frame_storeCplx hd (lanes1 (fun _ x => f x) xs)
  · have hx' : xs[i] = x := Option.some.inj ((hc i hi).symm.trans hx)
    rw [cell_storeCplx hm hd _ i (by simpa using hi) (by simpa using hl), getElem_lanes1, hx']

/-- A complex source, real destination (R122). -/
theorem fromComplex_spec (hm : Memory.wf s) {dst sa : BufId} {len : Nat} (f : C32 → F32) (hd : dst.isReal = true)
    (hl : len ≤ s.params.bufLen dst) (ha : Written (s.cplxBuf sa) len) :
    ∃ t, s.fromComplex dst sa len f = .next t ∧ KernelFrame s t dst len ∧ t.port = s.port ∧
      ∀ i < len, ∀ x, cellAt (s.cplxBuf sa) i = some x → cellAt (t.realBuf dst) i = some (f x) := by
  obtain ⟨xs, hxs⟩ := exists_readLanes ha
  obtain ⟨rfl, hc⟩ := readLanes_some hxs
  have hlen := length_lanes1 (fun _ x => f x) xs
  refine ⟨s.storeReal dst (lanes1 (fun _ x => f x) xs), by simp [State.fromComplex, State.withLanes, hxs], ?_,
    by simp [State.storeReal], fun i hi x hx => ?_⟩
  · simpa [hlen] using frame_storeReal hd (lanes1 (fun _ x => f x) xs)
  · have hx' : xs[i] = x := Option.some.inj ((hc i hi).symm.trans hx)
    rw [cell_storeReal hm hd _ i (by simpa using hi) (by simpa using hl), getElem_lanes1, hx']

/-! ### What a lane shape answers, if it answers a next state -/

theorem withLanes_next {α : Type} {src : Buffer α} {b : BufId} {len : Nat} {body : List α → Result}
    (h : State.withLanes src b len body = .next t) : ∃ xs, readLanes src len = some xs ∧ body xs = .next t := by
  cases hr : readLanes src len with
  | none => simp [State.withLanes, hr] at h
  | some xs => exact ⟨xs, rfl, by simpa [State.withLanes, hr] using h⟩

theorem unary_next {dst sa : BufId} {len : Nat} {f : Nat → F32 → F32} (h : s.unary dst sa len f = .next t) :
    ∃ vs, t = s.storeReal dst vs := by
  obtain ⟨xs, -, h⟩ := withLanes_next h
  exact ⟨lanes1 f xs, (Host.Outcome.next.inj h).symm⟩

theorem binary_next {dst sa sb : BufId} {len : Nat} {f : Nat → F32 → F32 → F32}
    (h : s.binary dst sa sb len f = .next t) : ∃ vs, t = s.storeReal dst vs := by
  obtain ⟨xs, -, h⟩ := withLanes_next h
  obtain ⟨ys, -, h⟩ := withLanes_next h
  exact ⟨lanes2 f xs ys, (Host.Outcome.next.inj h).symm⟩

theorem toComplex_next {dst sa : BufId} {len : Nat} {f : F32 → C32} (h : s.toComplex dst sa len f = .next t) :
    ∃ vs, t = s.storeCplx dst vs := by
  obtain ⟨xs, -, h⟩ := withLanes_next h
  exact ⟨lanes1 (fun _ x => f x) xs, (Host.Outcome.next.inj h).symm⟩

theorem fromComplex_next {dst sa : BufId} {len : Nat} {f : C32 → F32} (h : s.fromComplex dst sa len f = .next t) :
    ∃ vs, t = s.storeReal dst vs := by
  obtain ⟨xs, -, h⟩ := withLanes_next h
  exact ⟨lanes1 (fun _ x => f x) xs, (Host.Outcome.next.inj h).symm⟩

/-- What a micro-op that answers a next state has done: a check fault, a store of real lanes to a writable real buffer,
a store of complex lanes, an engine answer, or the successful end. -/
inductive MicroOpEffect (s : State) : State → Prop
  | faulted (e : ErrCode) : MicroOpEffect s (s.raise e)
  | storedReal (dst : BufId) (vs : List F32) (h : dst.isRealW = true) : MicroOpEffect s (s.storeReal dst vs)
  | storedCplx (dst : BufId) (vs : List C32) (h : dst.isComplex = true) : MicroOpEffect s (s.storeCplx dst vs)
  | answered (c : Ctx) (x : List C32) (ok : Bool) (y : Nat → C32) (h : s.ctx = some c) :
      MicroOpEffect s (({ s with port := some (.forward c x) } : State).forwardAnswer ok y)
  | ended : MicroOpEffect s s.succeed

/-- The inversion of exec on micro-ops. -/
theorem exec_microOp_effect {i : Instr} (hi : i.isMicroOp = true) (h : exec i s = .next t) : MicroOpEffect s t := by
  have real {i : Instr} {dst : BufId} {body : Result} (hd : (dst, OperandClass.realW) ∈ operandFields i)
      (hb : body = .next t → ∃ vs, t = s.storeReal dst vs) (h : s.checked i body = .next t) : MicroOpEffect s t := by
    rcases checked_cases i body with ⟨e, -, he⟩ | ⟨hl, he⟩
    · cases he.symm.trans h; exact .faulted e
    · obtain ⟨vs, rfl⟩ := hb (he.symm.trans h)
      exact .storedReal dst vs (by simpa using admits_of_legal hl _ hd)
  cases i with
  | done => cases h; exact .ended
  | copy d a n => exact real (by simp [operandFields]) unary_next h
  | sqrt d a n => exact real (by simp [operandFields]) unary_next h
  | sqr d a n => exact real (by simp [operandFields]) unary_next h
  | logc d a n => exact real (by simp [operandFields]) unary_next h
  | add d a b n => exact real (by simp [operandFields]) binary_next h
  | mul d a b n => exact real (by simp [operandFields]) binary_next h
  | cmag d a b n => exact real (by simp [operandFields]) binary_next h
  | winmul d a n => exact real (by simp [operandFields]) binary_next h
  | pnorm d a n => exact real (by simp [operandFields]) binary_next h
  | real d a n => exact real (by simp [operandFields]) fromComplex_next h
  | imag d a n => exact real (by simp [operandFields]) fromComplex_next h
  | pack d a n =>
    change s.checked _ _ = .next t at h
    rcases checked_cases (s := s) (.pack d a n) (s.toComplex d a n fun x => { re := x, im := 0 }) with
      ⟨e, -, he⟩ | ⟨hl, he⟩
    · cases he.symm.trans h; exact .faulted e
    · obtain ⟨vs, rfl⟩ := toComplex_next (he.symm.trans h)
      exact .storedCplx d vs (by simpa using admits_of_legal hl (d, .complex) (by simp [operandFields]))
  | fft d a n =>
    change s.checked _ _ = .next t at h
    rcases checked_cases (s := s) (.fft d a n) _ with ⟨e, -, he⟩ | ⟨hl, he⟩
    · cases he.symm.trans h; exact .faulted e
    · obtain ⟨x, -, hx⟩ := withLanes_next (he.symm.trans h)
      split at hx
      · cases hx
      · rename_i c hc
        cases hx
        exact .answered c x _ _ hc
  | construct => cases hi
  | transform => cases hi
  | destroy => cases hi

end Sys2Proof.Machine
end

