-- ==== Sys2Proof/Laws/Commands.lean ====
section
/-!
SUPPORT. What the command operations and the host port can do, each said once.
-/

namespace Sys2Proof.Machine

variable {s t : State}

/-- A `CMD` store of a decoded command ends in one of three ways (R201). -/
theorem issue_cases (s : State) (c : Command) :
    (s.busy = true ∧ s.issue c = s.overrun) ∨
      (s.busy = false ∧ s.life = lifeFor c ∧ s.issue c = s.accept c) ∨
      (s.busy = false ∧ s.life ≠ lifeFor c ∧ s.issue c = s.reject .illegalState) := by
  cases hb : s.busy
  · by_cases hl : s.life = lifeFor c
    · exact .inr (.inl ⟨rfl, hl, by simp [State.issue, hb, hl]⟩)
    · exact .inr (.inr ⟨rfl, hl, by simp [State.issue, hb, hl]⟩)
  · exact .inl ⟨rfl, by simp [State.issue, hb]⟩

/-- The completion of CONSTRUCT ends in success, in failure after the engine was asked, or in failure before
(R205, R206). -/
theorem completeConstruct_cases (s : State) (ok : Bool) (answer : Option Ctx) :
    let s' : State := { s with draws := s.draws + 1 }
    let asked : State := { s' with port := some (.init s.params.n) }
    (ok = true ∧ ∃ c, answer = some c ∧ s.completeConstruct ok answer = asked.constructed c) ∨
      (ok = true ∧ answer = none ∧ s.completeConstruct ok answer = asked.constructFailed) ∨
      (ok = false ∧ s.completeConstruct ok answer = s'.constructFailed) := by
  cases ok
  · exact .inr (.inr ⟨rfl, rfl⟩)
  · cases answer with
    | none => exact .inr (.inl ⟨rfl, rfl, rfl⟩)
    | some c => exact .inl ⟨rfl, c, rfl, rfl⟩

/-- What a host access that answers a next state has done to the core: nothing, a store to `CTRL` or to `IN`, a dropped
or an undecodable `CMD` store, or a command's own effect (R62, R63, R66, R201). -/
inductive HostEffect (s : State) : State → Prop
  | answered (r : Reply) : HostEffect s (s.answer r)
  | ctrl (v : Word) : HostEffect s ((s.answer .stored).storeCtrl v)
  | inElem (n : Nat) (v : Word) :
      HostEffect s { s.answer .stored with inp := setCell s.inp n v }
  | dropped (h : s.busy = true) : HostEffect s (s.answer .stored).overrun
  | illegal (h : s.busy = false) : HostEffect s ((s.answer .stored).reject .illegalCommand)
  | command (i : Instr) (u : State) (h : s.busy = false) (hi : i.isMicroOp = false)
      (hu : exec i (s.answer .stored) = .next u) : HostEffect s u

theorem decodeCommand_isMicroOp {v : Word} {i : Instr} (h : decodeCommand v = .ok i) : i.isMicroOp = false := by
  unfold decodeCommand at h
  split at h
  · split at h <;> cases h <;> rfl
  · cases h

theorem storeCommand_effect {v : Word} (h : storeCommand v (s.answer .stored) = .next t) : HostEffect s t := by
  unfold storeCommand at h
  split at h
  · rename_i hb
    cases h
    exact .dropped (by simpa using hb)
  · rename_i hb
    have hb' : s.busy = false := by simpa using hb
    split at h
    · cases h; exact .illegal hb'
    · rename_i i hi
      exact .command i t hb' (decodeCommand_isMicroOp hi) h

/-- The inversion of the host port. -/
theorem hostAccess_effect {a : Access} (h : hostAccess a s = .next t) : HostEffect s t := by
  cases a with
  | load addr width =>
    simp only [hostAccess] at h
    split at h
    · cases h; exact .answered _
    · rename_i loc _
      cases loc <;> simp only [loadLoc, State.loadCell] at h
      all_goals first
        | (cases h; exact .answered _)
        | (split at h
           · cases h
           · cases h; exact .answered _)
  | store addr width v =>
    simp only [hostAccess] at h
    split at h
    · cases h; exact .answered _
    · rename_i loc _
      cases loc <;> simp only [storeLoc] at h
      case cmd => exact storeCommand_effect h
      case ctrl => cases h; exact .ctrl v
      case inElem => cases h; exact .inElem _ v
      all_goals (cases h; exact .answered _)

/-- What a command that answers a next state has done: its completion step, or its `CMD` store (R201 to R211). -/
inductive CommandEffect (s : State) : State → Prop
  | issued (c : Command) (h : c = .transform → ¬ (s.busy = false ∧ s.life = .ready)) : CommandEffect s (s.issue c)
  | started (hb : s.busy = false) (hl : s.life = .ready) :
      CommandEffect s { s.accept .transform with upc := 0, logmodeL := s.logmode }
  | constructed (ok : Bool) (answer : Option Ctx) (h : s.cmdL = some .construct) :
      CommandEffect s (s.completeConstruct ok answer)
  | destroyed (h : s.cmdL = some .destroy) : CommandEffect s s.completeDestroy

/-- The inversion of exec on commands; a command always answers a next state. -/
theorem exec_command_effect {i : Instr} (hi : i.isMicroOp = false) (h : exec i s = .next t) : CommandEffect s t := by
  cases i with
  | construct =>
    cases h
    split
    · exact .constructed _ _ ‹_›
    · exact .issued _ (by simp)
  | transform =>
    cases h
    split
    · rename_i hc
      have : s.issue .transform = s.accept .transform := by simp [State.issue, hc.1, hc.2, lifeFor]
      rw [this]
      exact .started hc.1 hc.2
    · exact .issued _ (fun _ => ‹_›)
  | destroy =>
    cases h
    split
    · exact .destroyed ‹_›
    · exact .issued _ (by simp)
  | _ => cases hi

end Sys2Proof.Machine
end

