-- ==== Sys2Proof/Laws/Decode.lean ====
section
/-!
SUPPORT. The laws of fields, buffer ids and masks: what each field of an encoded word reads, and what the two masks of
the opcode table keep.
-/

namespace Sys2Proof

@[simp] theorem ofBits_toBits (b : BufId) : BufId.ofBits b.toBits = b := by
  cases b with
  | reserved k => revert k; decide
  | _ => rfl

@[simp] theorem toBits_ofBits (b : BitVec 5) : (BufId.ofBits b).toBits = b := by revert b; decide

variable (op : BitVec 6) (dst sa sb : BufId) (len : Nat)

/-! ### The fields of an encoded micro-op (R93, R113) -/

theorem fieldOp_encodeU : fieldOp (encodeU op dst sa sb len) = op := by
  apply BitVec.eq_of_getLsbD_eq
  intro i hi
  simp only [fieldOp, encodeU, BitVec.getLsbD_extractLsb', BitVec.getLsbD_append]
  interval_cases i <;> simp

theorem fieldDst_encodeU : fieldDst (encodeU op dst sa sb len) = dst.toBits := by
  apply BitVec.eq_of_getLsbD_eq
  intro i hi
  simp only [fieldDst, encodeU, BitVec.getLsbD_extractLsb', BitVec.getLsbD_append]
  interval_cases i <;> simp

theorem fieldSa_encodeU : fieldSa (encodeU op dst sa sb len) = sa.toBits := by
  apply BitVec.eq_of_getLsbD_eq
  intro i hi
  simp only [fieldSa, encodeU, BitVec.getLsbD_extractLsb', BitVec.getLsbD_append]
  interval_cases i <;> simp

theorem fieldSb_encodeU : fieldSb (encodeU op dst sa sb len) = sb.toBits := by
  apply BitVec.eq_of_getLsbD_eq
  intro i hi
  simp only [fieldSb, encodeU, BitVec.getLsbD_extractLsb', BitVec.getLsbD_append]
  interval_cases i <;> simp

theorem fieldLen_encodeU : fieldLen (encodeU op dst sa sb len) = BitVec.ofNat 11 len := by
  apply BitVec.eq_of_getLsbD_eq
  intro i hi
  simp only [fieldLen, encodeU, BitVec.getLsbD_extractLsb', BitVec.getLsbD_append]
  interval_cases i <;> simp

/-! ### The masks of the opcode table (R112) -/

/-- The mask of a row with two sources keeps the opcode alone. -/
theorem and_maskOp (w : Word) : w &&& 0xFC000000 = fieldOp w ++ (0 : BitVec 26) := by
  apply BitVec.eq_of_getLsbD_eq
  intro i hi
  simp only [fieldOp, BitVec.getLsbD_and, BitVec.getLsbD_extractLsb', BitVec.getLsbD_append]
  interval_cases i <;> simp

/-- The mask of a row with one source keeps the opcode and `sb`. -/
theorem and_maskOpSb (w : Word) :
    w &&& 0xFC00F800 = fieldOp w ++ (0 : BitVec 10) ++ fieldSb w ++ (0 : BitVec 11) := by
  apply BitVec.eq_of_getLsbD_eq
  intro i hi
  simp only [fieldOp, fieldSb, BitVec.getLsbD_and, BitVec.getLsbD_extractLsb', BitVec.getLsbD_append]
  interval_cases i <;> simp

/-- The mask of DONE and of the commands keeps the whole word. -/
theorem and_maskAll (w : Word) : w &&& 0xFFFFFFFF = w := by
  apply BitVec.eq_of_getLsbD_eq
  intro i hi
  rw [BitVec.getLsbD_and]
  interval_cases i <;> simp

end Sys2Proof
end

