-- ==== Sys2Proof/Laws/PerInstr.lean ====
section
/-!
SUPPORT. Per instruction: the encoded word of an instruction is selected by the opcode table's row of its mnemonic (R112).
-/

namespace Sys2Proof.Laws.RowMatch

/-- The word of `i` is selected by its own row of the opcode table. -/
def Statement (i : Instr) : Prop :=
  ∃ r ∈ microOpRows ++ commandRows, r.mnemonic = i.mnemonic ∧ r.selects (encode i) = true

theorem binaryRow {op : BitVec 6} {dst sa sb : BufId} {len : Nat} (r : OpcodeRow) (hm : r.mask = 0xFC000000)
    (hp : r.pattern = op ++ (0 : BitVec 26)) : r.selects (encodeU op dst sa sb len) = true := by
  simp only [OpcodeRow.selects, hm, hp, and_maskOp, fieldOp_encodeU, beq_self_eq_true]

theorem unaryRow {op : BitVec 6} {dst sa : BufId} {len : Nat} (r : OpcodeRow) (hm : r.mask = 0xFC00F800)
    (hp : r.pattern = op ++ (0 : BitVec 26)) : r.selects (encodeU op dst sa .noBuf len) = true := by
  simp only [OpcodeRow.selects, hm, hp, and_maskOpSb, fieldOp_encodeU, fieldSb_encodeU, BufId.toBits, beq_iff_eq]
  apply BitVec.eq_of_getLsbD_eq
  intro i hi
  simp only [BitVec.getLsbD_append]
  interval_cases i <;> simp

theorem done : Statement .done :=
  ⟨⟨"DONE", 0xFFFFFFFF, 0x00000000⟩, by decide, rfl, rfl⟩
theorem copy (dst sa : BufId) (len : Nat) : Statement (.copy dst sa len) :=
  ⟨⟨"COPY", 0xFC00F800, 0x04000000⟩, by decide, rfl, unaryRow _ rfl rfl⟩
theorem add (dst sa sb : BufId) (len : Nat) : Statement (.add dst sa sb len) :=
  ⟨⟨"ADD", 0xFC000000, 0x08000000⟩, by decide, rfl, binaryRow _ rfl rfl⟩
theorem mul (dst sa sb : BufId) (len : Nat) : Statement (.mul dst sa sb len) :=
  ⟨⟨"MUL", 0xFC000000, 0x0C000000⟩, by decide, rfl, binaryRow _ rfl rfl⟩
theorem sqrt (dst sa : BufId) (len : Nat) : Statement (.sqrt dst sa len) :=
  ⟨⟨"SQRT", 0xFC00F800, 0x10000000⟩, by decide, rfl, unaryRow _ rfl rfl⟩
theorem sqr (dst sa : BufId) (len : Nat) : Statement (.sqr dst sa len) :=
  ⟨⟨"SQR", 0xFC00F800, 0x14000000⟩, by decide, rfl, unaryRow _ rfl rfl⟩
theorem winmul (dst sa : BufId) (len : Nat) : Statement (.winmul dst sa len) :=
  ⟨⟨"WINMUL", 0xFC00F800, 0x20000000⟩, by decide, rfl, unaryRow _ rfl rfl⟩
theorem cmag (dst sa sb : BufId) (len : Nat) : Statement (.cmag dst sa sb len) :=
  ⟨⟨"CMAG", 0xFC000000, 0x24000000⟩, by decide, rfl, binaryRow _ rfl rfl⟩
theorem pnorm (dst sa : BufId) (len : Nat) : Statement (.pnorm dst sa len) :=
  ⟨⟨"PNORM", 0xFC00F800, 0x28000000⟩, by decide, rfl, unaryRow _ rfl rfl⟩
theorem logc (dst sa : BufId) (len : Nat) : Statement (.logc dst sa len) :=
  ⟨⟨"LOGC", 0xFC00F800, 0x2C000000⟩, by decide, rfl, unaryRow _ rfl rfl⟩
theorem pack (dst sa : BufId) (len : Nat) : Statement (.pack dst sa len) :=
  ⟨⟨"PACK", 0xFC00F800, 0x40000000⟩, by decide, rfl, unaryRow _ rfl rfl⟩
theorem fft (dst sa : BufId) (len : Nat) : Statement (.fft dst sa len) :=
  ⟨⟨"FFT", 0xFC00F800, 0x44000000⟩, by decide, rfl, unaryRow _ rfl rfl⟩
theorem real (dst sa : BufId) (len : Nat) : Statement (.real dst sa len) :=
  ⟨⟨"REAL", 0xFC00F800, 0x48000000⟩, by decide, rfl, unaryRow _ rfl rfl⟩
theorem imag (dst sa : BufId) (len : Nat) : Statement (.imag dst sa len) :=
  ⟨⟨"IMAG", 0xFC00F800, 0x4C000000⟩, by decide, rfl, unaryRow _ rfl rfl⟩
theorem construct : Statement .construct :=
  ⟨⟨"CONSTRUCT", 0xFFFFFFFF, 0x00000001⟩, by decide, rfl, rfl⟩
theorem transform : Statement .transform :=
  ⟨⟨"TRANSFORM", 0xFFFFFFFF, 0x00000002⟩, by decide, rfl, rfl⟩
theorem destroy : Statement .destroy :=
  ⟨⟨"DESTROY", 0xFFFFFFFF, 0x00000003⟩, by decide, rfl, rfl⟩

end Sys2Proof.Laws.RowMatch
end

