-- ==== Sys2Proof/Laws/Program.lean ====
section
/-!
SUPPORT. What the check of a micro-program says (R192): what it comes to, that the normative program passes it for every
legal N (R108, R183), and that a program that passes it takes no check fault and no fetch out of range (R181, R182).
-/

namespace Sys2Proof.Machine

variable {p : Params} {s : State}

theorem legalWord_iff (w : Word) : legalWord p w = true ↔ ∃ i, checkWord p w = .ok i := by
  unfold legalWord
  split <;> simp_all

/-- A word passes the check exactly when it decodes to a micro-op without a legality fault. -/
theorem checkWord_ok_iff (w : Word) (i : Instr) :
    checkWord p w = .ok i ↔ decodeMicroOp w = .ok i ∧ legalityFault p i = none := by
  unfold checkWord
  split
  · simp_all
  · rename_i j hj
    rw [hj]
    cases h : legalityFault p j <;> simp <;> rintro rfl <;> simp [h]

theorem checkProgram_iff :
    checkProgram p = true ↔
      (∀ w ∈ p.urom, ∃ i, decodeMicroOp w = .ok i ∧ legalityFault p i = none) ∧ p.urom.getLast? = some 0 := by
  simp only [checkProgram, Bool.and_eq_true, List.all_eq_true, legalWord_iff, checkWord_ok_iff]
  exact and_congr_right fun _ => decide_eq_true_iff

/-! ### A program that passes -/

/-- At every index of a program that passes, the sequencer executes a legal micro-op. -/
theorem microStep_of_checkProgram (h : checkProgram s.params = true) (hu : s.upc < s.params.ulen) :
    ∃ i, s.params.urom[s.upc]? = some (s.params.urom[s.upc]'hu) ∧ legalityFault s.params i = none ∧
      microStep s = exec i s := by
  obtain ⟨i, hd, hl⟩ := (checkProgram_iff.mp h).1 _ (List.getElem_mem hu)
  have hg : s.params.urom[s.upc]? = some (s.params.urom[s.upc]'hu) := List.getElem?_eq_getElem hu
  exact ⟨i, hg, hl, by simp [microStep, fetch, hg, hd]⟩

/-- At the last index of a program that passes, the command ends with success, so no fetch goes beyond it. -/
theorem microStep_last_of_checkProgram (h : checkProgram s.params = true) (hu : s.upc + 1 = s.params.ulen) :
    microStep s = .next s.succeed := by
  have hl := (checkProgram_iff.mp h).2
  have hi : s.params.urom.length - 1 = s.upc := by simp only [Params.ulen] at hu; omega
  rw [List.getLast?_eq_getElem?, hi] at hl
  simp [microStep, fetch, hl, decodeMicroOp, fieldOp, exec, execDone]

/-! ### The normative program -/

/-- A one-source word of opcode `op` decodes to what that opcode makes of its fields. -/
theorem decodeUnary_encodeU (make : BufId → BufId → Nat → Instr) (op : BitVec 6) (dst sa : BufId) {len : Nat}
    (h : len < 2048) : decodeUnary make (encodeU op dst sa .noBuf len) = .ok (make dst sa len) := by
  have hz : BufId.noBuf.toBits = 0 := rfl
  simp [decodeUnary, fieldSb_encodeU, fieldDst_encodeU, fieldSa_encodeU, fieldLen_encodeU, hz, Nat.mod_eq_of_lt h]

/-- The same for a two-source word. -/
theorem decodeBinary_encodeU (make : BufId → BufId → BufId → Nat → Instr) (op : BitVec 6) (dst sa sb : BufId)
    {len : Nat} (h : len < 2048) : decodeBinary make (encodeU op dst sa sb len) = .ok (make dst sa sb len) := by
  simp [decodeBinary, fieldSb_encodeU, fieldDst_encodeU, fieldSa_encodeU, fieldLen_encodeU, Nat.mod_eq_of_lt h]

/-- Every micro-op of the normative program is in a legal form. -/
theorem legal_of_normative (hn : 2 ≤ p.n) :
    ∀ i ∈ normativeProgram p.n, legalityFault p i = none := by
  have hb' : p.n / 2 + 1 = p.nb := rfl
  have hb : ¬ p.n < p.nb := by simp only [Params.nb]; omega
  have hz : p.nb ≠ 0 := Nat.succ_ne_zero _
  simp [normativeProgram, legalityFault, operandFields, badLen, impliedBufs, missingBuf_eq, BufId.isReal, BufId.isRealW,
    BufId.isComplex, Params.bufLen, hb']
  exact ⟨by omega, ⟨hz, decide_eq_false hb⟩, hz, ⟨hz, decide_eq_false hb⟩, hz⟩

/-- Its words decode to its micro-ops. -/
theorem decode_of_normative {n : Nat} (hn : n ≤ 2046) :
    ∀ i ∈ normativeProgram n, decodeMicroOp (encode i) = .ok i := by
  have h : n < 2048 := by omega
  have h' : n / 2 + 1 < 2048 := by omega
  simp [normativeProgram, encode, decodeMicroOp, fieldOp_encodeU, decodeUnary_encodeU _ _ _ _ h,
    decodeUnary_encodeU _ _ _ _ h', decodeBinary_encodeU _ _ _ _ _ h']
  rfl

/-- The normative program passes the check at every `upc`, for every legal N (R108). -/
theorem checkProgram_of_normative (h : p.wf) (hu : p.urom = normativeUrom p.n) : checkProgram p = true := by
  rw [checkProgram_iff, hu]
  refine ⟨fun w hw => ?_, by simp [normativeUrom, normativeProgram, encode]⟩
  obtain ⟨i, hi, rfl⟩ := List.mem_map.mp hw
  exact ⟨i, decode_of_normative h.2.2.1 i hi, legal_of_normative h.2.1 i hi⟩

end Sys2Proof.Machine
end

