-- ==== Sys2Proof/Tests/Slice0.lean ====
section
/-!
SUPPORT. Tests of single definitions and single steps, with their expected results from 95_test_vectors.md and
41_window_table.md or computed by hand from the rules; and for each statement with hypotheses a theorem `witness_…` that
shows a state and operands meeting them together. Small states are of a core with N = 4.
-/

namespace Sys2Proof.Tests

open Sys2Proof Sys2Proof.Machine

/-! ### Small states -/

/-- A legal core with N = 4, the window of R140 for it, and the normative micro-program. -/
def small : Params :=
  { n := 4, base := 0x4000, hannTab := [0, 0x3F400000, 0x3F400000, 0], powerPath := .roundTrip,
    clampNaN := .propagate, urom := normativeUrom 4 }

/-- 1.0, 2.0, 3.0, 4.0 -/
def ramp : List F32 := [0x3F800000, 0x40000000, 0x40400000, 0x40800000]

/-- A `Ready` instance whose frame is written and whose scratch is not. -/
def ready : State :=
  { State.powerOn small with
    life := .ready
    ctx := some ⟨7⟩
    hann := small.hannTab.map some
    pcoef := List.replicate 4 (some (pcoefVal 4))
    inp := ramp.map some }

/-- `ready` with every buffer written. -/
def full : State :=
  { ready with
    work := [some 0x41100000, some 0x40800000, some 0, some 0x3F800000]
    re := [some 0x40400000, some 0x80000000, some 0x3F800000]
    im := [some 0x40800000, some 0, some 0x3F800000]
    acc := [some 0x40A00000, some 0x40A00000, some 0x40A00000]
    out := [some 0x7FA00001, some 1, some 2]
    fin := [some ⟨1, 2⟩, some ⟨3, 4⟩, some ⟨5, 6⟩, some ⟨7, 8⟩]
    fout := [some ⟨9, 10⟩, some ⟨11, 12⟩, some ⟨13, 14⟩, some ⟨15, 16⟩] }

/-- `full` with TRANSFORM in progress at `upc = u`. -/
def running (u : Nat) : State := { full with busy := true, cmdL := some .transform, upc := u }

/-- CONSTRUCT in progress. -/
def constructing : State := { State.powerOn small with busy := true, cmdL := some .construct }

/-- DESTROY in progress. -/
def destroying : State := { full with busy := true, cmdL := some .destroy, agenda := [.sequencer] }

/-- The host about to store `v` to `CMD`. -/
def commanding (s : State) (v : Word) : State := { s with agenda := [.host (cmdAccess s.params v)] }

/-- What holds of the next state, if the result is one. -/
def after (r : Result) (p : State → Bool) : Bool :=
  match r with
  | .next t => p t
  | _ => false

/-! ### Well-formedness: one ill-formed term for each check (R95, R104 to R107) -/

theorem test_wf_legal : (Instr.copy .work .input 128).wellFormed .reference = true := by decide
theorem test_wf_source_missing : (Instr.copy .work .noBuf 128).wellFormed .reference = false := by decide
theorem test_wf_source_reserved : (Instr.copy .work (.reserved 0) 128).wellFormed .reference = false := by decide
theorem test_wf_source_complex : (Instr.copy .work .fin 128).wellFormed .reference = false := by decide
theorem test_wf_second_source_complex : (Instr.add .acc .re .fout 4).wellFormed .reference = false := by decide
theorem test_wf_dst_not_writable : (Instr.copy .hann .input 128).wellFormed .reference = false := by decide
theorem test_wf_dst_host_owned : (Instr.copy .input .work 128).wellFormed .reference = false := by decide
theorem test_wf_pack_dst_real : (Instr.pack .work .input 128).wellFormed .reference = false := by decide
theorem test_wf_real_source_real : (Instr.real .re .work 65).wellFormed .reference = false := by decide
theorem test_wf_len_zero : (Instr.copy .work .input 0).wellFormed .reference = false := by decide
theorem test_wf_len_over_dst : (Instr.copy .acc .input 66).wellFormed .reference = false := by decide
theorem test_wf_len_over_source : (Instr.copy .work .acc 66).wellFormed .reference = false := by decide
theorem test_wf_len_over_second_source : (Instr.add .work .work .re 66).wellFormed .reference = false := by decide
theorem test_wf_fft_operands : (Instr.fft .fin .fout 128).wellFormed .reference = false := by decide
theorem test_wf_fft_len : (Instr.fft .fout .fin 64).wellFormed .reference = false := by decide

/-! ### Decoding: words written out from R92, R93, R94 -/

theorem test_decode_done : decodeMicroOp 0b000000_00000_00000_00000_00000000000 = .ok .done := by decide
theorem test_decode_copy :
    decodeMicroOp 0b000001_00010_00001_00000_00010000000 = .ok (.copy .work .input 128) := by decide
theorem test_decode_add :
    decodeMicroOp 0b000010_00101_00011_00100_00001000000 = .ok (.add .acc .re .im 64) := by decide
theorem test_decode_mul :
    decodeMicroOp 0b000011_00010_00010_00111_00010000000 = .ok (.mul .work .work .hann 128) := by decide
theorem test_decode_sqrt :
    decodeMicroOp 0b000100_00101_00011_00000_00001000000 = .ok (.sqrt .acc .re 64) := by decide
theorem test_decode_sqr :
    decodeMicroOp 0b000101_00101_00011_00000_00001000000 = .ok (.sqr .acc .re 64) := by decide
theorem test_decode_winmul :
    decodeMicroOp 0b001000_00110_00001_00000_00001000001 = .ok (.winmul .out .input 65) := by decide
theorem test_decode_cmag :
    decodeMicroOp 0b001001_00101_00011_00100_00001000001 = .ok (.cmag .acc .re .im 65) := by decide
theorem test_decode_pnorm :
    decodeMicroOp 0b001010_00110_00001_00000_00001000001 = .ok (.pnorm .out .input 65) := by decide
theorem test_decode_logc :
    decodeMicroOp 0b001011_00110_00101_00000_00001000001 = .ok (.logc .out .acc 65) := by decide
theorem test_decode_pack :
    decodeMicroOp 0b010000_01001_00010_00000_00010000000 = .ok (.pack .fin .work 128) := by decide
theorem test_decode_fft :
    decodeMicroOp 0b010001_01010_01001_00000_00010000000 = .ok (.fft .fout .fin 128) := by decide
theorem test_decode_real :
    decodeMicroOp 0b010010_00011_01010_00000_00001000001 = .ok (.real .re .fout 65) := by decide
theorem test_decode_imag :
    decodeMicroOp 0b010011_00100_01010_00000_00001000001 = .ok (.imag .im .fout 65) := by decide
theorem test_decode_construct : decodeCommand 1 = .ok .construct := by decide
theorem test_decode_transform : decodeCommand 2 = .ok .transform := by decide
theorem test_decode_destroy : decodeCommand 3 = .ok .destroy := by decide

/-- The words of R113 and of 95_test_vectors.md section 2.3 come out of the encoder. -/
theorem test_encode :
    [encode (.cmag .acc .re .im 65), encode (.copy .work .input 16), encode (.mul .acc .acc .pcoef 65),
      encode (.fft .fout .fin 128), encode .destroy] =
    [0x24A32041, 0x04410010, 0x0CA54041, 0x45490080, 3] := by decide

/-- The faulting words of 95_test_vectors.md section 2.3: the first failing step of R108 gives the fault. -/
theorem test_faulting_words_illegal :
    ([0x18410080, 0xFC000000, 0x18410000, 0x00000001, 0x04410880, 0x04410800, 0x04400080, 0x044B0080] : List Word).all
      (fun w => decide (checkWord .reference w = .error .illegalMicroOp)) = true := by decide

theorem test_faulting_words_operand :
    ([0x04490080, 0x40410080, 0x04E10080, 0x04220080, 0x452A0080, 0x45490040, 0x04410000, 0x04410081,
      0x08A32042] : List Word).all
      (fun w => decide (checkWord .reference w = .error .operandFault)) = true := by decide

/-- R183: the words for N = 128 are the encodings of the normative micro-program. -/
theorem test_normative_words : normativeUrom 128 = Config.urom128 := by decide

/-- R192: the normative program passes the check; programs with a bad lane count, or without DONE at the end, or with no
word at all, do not. -/
theorem test_program_check :
    checkProgram .reference = true ∧ checkProgram { Params.reference with urom := [0x04410081, 0] } = false ∧
    checkProgram { Params.reference with urom := [0, 0x04410080] } = false ∧
    checkProgram { Params.reference with urom := [] } = false := by decide

/-- No word is selected by two rows of one format. -/
theorem test_rows_disjoint :
    microOpRows.Pairwise (fun r q => r.pattern &&& q.mask ≠ q.pattern &&& r.mask) ∧
    commandRows.Pairwise (fun r q => r.pattern ≠ q.pattern) := by decide

/-- The host's reading of a table word. -/
theorem test_table_word : decodeTableWord 32 0x24A32041 = some (.cmag .acc .re .im 65) ∧
    decodeTableWord 32 3 = some .destroy ∧ decodeTableWord 32 0x18410080 = none := by decide

/-! ### Constants (R142, R143, R146, R176) -/

theorem test_hann_ends : Config.hannTab128.length = 128 ∧ Config.hannTab128.head? = some 0 ∧
    Config.hannTab128.getLast? = some 0 ∧ Config.hannTab128.reverse = Config.hannTab128 := by decide +kernel

theorem test_pcoef : pcoefVal 128 = 0x38800000 := by decide

/-! ### Binary32 (R124 to R126, R175); sums, products and roots by hand from R133 -/

/-- all-ones plus all-ones (T1), a tie to even, a carry to infinity, and a cancellation to +0 -/
theorem test_fadd :
    [F32.fadd 0 0x3F800000 0x3F800000, F32.fadd 0 0x3F800000 0x33800000, F32.fadd 0 0x7F7FFFFF 0x7F7FFFFF,
      F32.fadd 0 0x3F800000 0xBF800000, F32.fadd 0 0x80000000 0x80000000] =
    [0x40000000, 0x3F800000, 0x7F800000, 0x00000000, 0x80000000] := by decide

/-- two times three (T2), a gradual underflow that rounds to even, and the sign of a zero product -/
theorem test_fmul :
    [F32.fmul 0 0x40000000 0x40400000, F32.fmul 0 0x00000001 0x3F000000, F32.fmul 0 0x00000003 0x3F000000,
      F32.fmul 0 0x80000000 0x3F800000] =
    [0x40C00000, 0x00000000, 0x00000002, 0x80000000] := by decide +kernel

/-- the root of nine (T3), of two, and of −0 -/
theorem test_fsqrt :
    [F32.fsqrt 0 0x41100000, F32.fsqrt 0 0x40000000, F32.fsqrt 0 0x80000000] =
    [0x40400000, 0x3FB504F3, 0x80000000] := by decide +kernel

/-- below, at and above the floor, and a NaN -/
theorem test_clamp :
    [clampLane .propagate 0, clampLane .propagate 0x0DA24260, clampLane .propagate 0x3F800000,
      clampLane .propagate 0x7FC00000, clampLane .floor 0x7FC00000] =
    [0x0DA24260, 0x0DA24260, 0x3F800000, 0x7FC00000, 0x0DA24260] := by decide

/-! ### One step of each micro-op -/

/-- bits kept, a signalling NaN included; lanes from `len` on stay -/
theorem test_copy : after (exec (.copy .acc .out 2) full) (fun t =>
    decide (t.acc = [some 0x7FA00001, some 1, some 0x40A00000] ∧ t.upc = 1 ∧ t.out = full.out)) = true := by
  decide

theorem test_copy_fault : after (exec (.copy .hann .input 4) (running 3)) (fun t =>
    decide (t = { running 3 with err := .operandFault, busy := false, cmdL := none })) = true := by decide

/-- in place: the destination is also a source -/
theorem test_add : after (exec (.add .re .re .im 3) full) (fun t =>
    decide (t.re = [some 0x40E00000, some 0, some 0x40000000] ∧ t.im = full.im)) = true := by decide

theorem test_mul : after (exec (.mul .acc .re .im 2) full) (fun t =>
    decide (t.acc = [some 0x41400000, some 0x80000000, some 0x40A00000])) = true := by decide +kernel

theorem test_sqrt : after (exec (.sqrt .work .work 4) full) (fun t =>
    decide (t.work = [some 0x40400000, some 0x40000000, some 0, some 0x3F800000])) = true := by decide +kernel

theorem test_sqr : after (exec (.sqr .out .re 3) full) (fun t =>
    decide (t.out = [some 0x41100000, some 0, some 0x3F800000])) = true := by decide +kernel

/-- lane 1 is 2.0 × 0.75 -/
theorem test_winmul : after (exec (.winmul .work .input 4) full) (fun t =>
    decide (t.work = [some 0, some 0x3FC00000, some 0x40100000, some 0])) = true := by decide +kernel

/-- |3 + 4i| = 5, and √2 -/
theorem test_cmag : after (exec (.cmag .acc .re .im 3) full) (fun t =>
    decide (t.acc = [some 0x40A00000, some 0, some 0x3FB504F3])) = true := by decide +kernel

/-- under `DIRECT` the sum of the squares -/
theorem test_cmag_direct : after (exec (.cmag .acc .re .im 3) { full with params := { small with powerPath := .direct } })
    (fun t => decide (t.acc = [some 0x41C80000, some 0, some 0x40000000])) = true := by decide +kernel

/-- 25 / 16 in every lane, the last (Nyquist) one too -/
theorem test_pnorm : after (exec (.pnorm .acc .acc 3) full) (fun t =>
    decide (t.acc = [some 0x3FC80000, some 0x3FC80000, some 0x3FC80000])) = true := by decide +kernel

/-- program P1: a logarithm of −30 of the floor gives −300.0; in natural mode the logarithm itself -/
theorem test_logc_lane :
    logcLane (fun p => if p = 0x0DA24260 then 0xC1F00000 else 0) (fun _ => 7) .propagate false 0 0 = 0xC3960000 ∧
    logcLane (fun _ => 0) (fun p => if p = 0x0DA24260 then 0xC28A2774 else 0) .propagate true 0 0 = 0xC28A2774 := by
  decide +kernel

/-- in natural mode a NaN of the logarithm, here a signalling one, becomes the drawn quiet NaN -/
theorem test_logc_nan :
    logcLane (fun _ => 0) (fun _ => 0x7FA00001) .propagate true 0x7FC00000 0x7FC00000 = 0x7FC00000 := by decide

/-- the latched bit decides, not `CTRL` -/
theorem test_logc_latched : after (exec (.logc .out .acc 1) { full with logmode := false, logmodeL := true }) (fun t =>
    decide (t.upc = 1 ∧ t.out.length = 3)) = true := by decide

theorem test_pack : after (exec (.pack .fin .input 2) full) (fun t =>
    decide (t.fin = [some ⟨0x3F800000, 0⟩, some ⟨0x40000000, 0⟩, some ⟨5, 6⟩, some ⟨7, 8⟩])) = true := by
  decide

theorem test_fft_answer_ok :
    decide ((running 3).forwardAnswer true (fun k => ⟨BitVec.ofNat 32 k, 1⟩) =
      { running 3 with fout := [some ⟨0, 1⟩, some ⟨1, 1⟩, some ⟨2, 1⟩, some ⟨3, 1⟩], upc := 4, draws := 1 }) = true := by
  decide

theorem test_fft_answer_error :
    decide ((running 3).forwardAnswer false (fun _ => ⟨0, 0⟩) =
      { running 3 with
        fout := [none, none, none, none], err := .transformFailure, busy := false, cmdL := none, draws := 1 }) = true := by
  decide

theorem test_real : after (exec (.real .re .fout 3) full) (fun t =>
    decide (t.re = [some 9, some 11, some 13] ∧ t.im = full.im)) = true := by decide

theorem test_imag : after (exec (.imag .im .fout 3) full) (fun t =>
    decide (t.im = [some 10, some 12, some 14] ∧ t.re = full.re)) = true := by decide

/-- STATUS after a transform reads 0x909 (95_test_vectors.md section 2.2, row 10) -/
theorem test_done : after (exec .done (running 9)) (fun t =>
    decide (t.statusWord = 0x909 ∧ t.cmdL = none)) = true := by decide

/-! ### Commands (95_test_vectors.md section 2.2) -/

/-- row 8, and rows 6 and 7 -/
theorem test_construct :
    (constructing.completeConstruct true (some ⟨7⟩)).statusWord = 0x9 ∧
    (constructing.completeConstruct true none).statusWord = 0x10 ∧
    (constructing.completeConstruct false (some ⟨7⟩)).statusWord = 0x10 ∧
    (constructing.completeConstruct false (some ⟨7⟩)).port = none := by decide

/-- row 9 -/
theorem test_construct_rejected : after (step (commanding ready 1)) (fun t => decide (t.statusWord = 0x31)) = true := by
  decide

/-- rows 10 and 2 -/
theorem test_transform :
    after (step (commanding ready 2)) (fun t => decide (t.statusWord = 0x5)) = true ∧
    after (step (commanding State.reset 2)) (fun t => decide (t.statusWord = 0x30)) = true := by decide

/-- row 13: a command while busy is dropped -/
theorem test_overrun : after (step (commanding (running 3) 2)) (fun t =>
    decide (t = { running 3 with ovr := true, reply := some .stored })) = true := by decide

/-- row 15 -/
theorem test_destroy : after (step { destroying with upc := 9 }) (fun t =>
    decide (t.statusWord = 0x90A ∧ t.port = some (.release ⟨7⟩) ∧ t.out = full.out ∧ t.ctx = none)) = true := by
  decide

/-- row 5 -/
theorem test_illegal_command : after (step (commanding State.reset 0x101)) (fun t =>
    decide (t.statusWord = 0x40)) = true := by decide

/-! ### The host port and reset (95_test_vectors.md section 2.1) -/

/-- the first word behind `IN` of the reference instance is a bus error, its last word is `IN[127]` -/
theorem test_map_edges :
    locate .reference 0x11FC 4 = some (.inElem 127) ∧ locate .reference 0x1200 4 = none ∧
    locate .reference 0x3100 4 = some (.outElem 64) ∧ locate .reference 0x3104 4 = none ∧
    locate .reference 0x0009 4 = none ∧ locate .reference 0x0008 2 = none := by decide

theorem test_load_id : after (hostAccess (.load 0x0000 4) State.reset) (fun t =>
    decide (t.reply = some (.data 0x4C535043))) = true := by decide

/-- bytes of `ID` from the lowest address up: "CPSL" (R61) -/
theorem test_bus_bytes : (List.range 4).map (busByte Config.idValue) = [0x43, 0x50, 0x53, 0x4C] := by decide

theorem test_store_ctrl : after (step { full with agenda := [.host (stCtrl small 0xFFFFFFFF)] }) (fun t =>
    decide (t.ctrlWord = 1)) = true := by decide

theorem test_reset_input : after (step { full with agenda := [.reset], busy := true, upc := 5, ovr := true }) (fun t =>
    decide (t = State.powerOn small)) = true := by decide

/-- the first step after reset runs the word placed for it -/
theorem test_with_fetch_word :
    after (step (State.reset.withFetchWord 32 0x00000000)) (fun t => t.done) = true ∧
    after (step (State.reset.withFetchWord 32 0x00000001)) (fun t => decide (t.cmdL = some .construct)) = true := by
  decide

/-! ### Witnesses: encodings -/

theorem witness_DecodeOfEncodeIsTheInstruction :
    (Instr.copy (.reserved 20) .noBuf 2047).encodable = true ∧
    small.wf ∧ (Instr.cmag .acc .re .im 3).wellFormed small = true := by decide

theorem witness_EncodeOfDecodeIsTheWord :
    decodeAs true 0x24A32041 = .ok (.cmag .acc .re .im 65) ∧ decodeAs false 2 = .ok .transform := by decide

/-- The three clauses of the one-source group: a missing id, a wrong class, a lane count of 0 and one too long. -/
theorem witness_LegalityCheckFaultsInOrder_unary :
    legalityFault small (.winmul .work (.reserved 0) 0) = some .illegalMicroOp ∧
    legalityFault small (.winmul .fin .input 0) = some .operandFault ∧
    legalityFault small (.copy .work .fout 4) = some .operandFault ∧
    BufId.isRealW .work = true ∧ BufId.isReal .input = true ∧
    legalityFault small (.copy .work .input 0) = some .operandFault ∧
    legalityFault small (.copy .work .input 5) = some .operandFault ∧
    legalityFault small (.copy .work .acc 4) = some .operandFault ∧
    legalityFault small (.copy .work .input 4) = none := by decide

theorem witness_LegalityCheckFaultsInOrder_binary :
    legalityFault small (.add .work .re .noBuf 0) = some .illegalMicroOp ∧
    legalityFault small (.mul .hann .re .im 3) = some .operandFault ∧
    legalityFault small (.cmag .work .work .im 4) = some .operandFault ∧
    legalityFault small (.cmag .work .re .im 0) = some .operandFault ∧
    legalityFault small (.cmag .work .re .im 3) = none := by decide

theorem witness_LegalityCheckFaultsInOrder_complex :
    legalityFault small (.pack .noBuf .work 4) = some .illegalMicroOp ∧
    legalityFault small (.pack .re .work 3) = some .operandFault ∧
    legalityFault small (.pack .fin .work 5) = some .operandFault ∧
    legalityFault small (.pack .fout .work 4) = none ∧
    legalityFault small (.real .re (.reserved 3) 3) = some .illegalMicroOp ∧
    legalityFault small (.imag .im .re 3) = some .operandFault ∧
    legalityFault small (.imag .im .fin 4) = some .operandFault ∧
    legalityFault small (.real .re .fin 3) = none ∧
    legalityFault small (.fft .fout .noBuf 4) = some .illegalMicroOp ∧
    legalityFault small (.fft .fin .fout 4) = some .operandFault ∧
    legalityFault small (.fft .fout .fin 3) = some .operandFault ∧
    legalityFault small (.fft .fout .fin 4) = none := by decide

/-! ### Witnesses: the step -/

theorem witness_SequencerStepExecutesTheMicroOp :
    SequencersTurn (running 6) ∧ (running 6).cmdL = some .transform ∧
    (running 6).params.urom[(running 6).upc]? = some 0x24A32003 ∧
    decodeMicroOp 0x24A32003 = .ok (.cmag .acc .re .im 3) := by decide

theorem witness_CmdStoreExecutesTheCommand :
    (commanding ready 2).agenda = .host (cmdAccess (commanding ready 2).params 2) :: [] ∧
    (commanding ready 2).busy = false ∧ decodeCommand 2 = .ok .transform := by decide

theorem witness_SequencerCompletesOrIdles :
    (SequencersTurn constructing ∧ constructing.cmdL = some .construct) ∧
    (SequencersTurn destroying ∧ destroying.cmdL = some .destroy) ∧
    (SequencersTurn ready ∧ ready.cmdL = none) := by decide

/-- The fetch one word behind the micro-program, and a word that is no micro-op and one with a bad lane count. -/
theorem witness_BadFetchOrWordEndsTheCommand :
    SequencersTurn (running 10) ∧ (running 10).cmdL = some .transform ∧
    (running 10).params.ulen ≤ (running 10).upc ∧
    (let s : State := { running 0 with params := { small with urom := [0x18410004] } }
     SequencersTurn s ∧ s.params.urom[s.upc]? = some 0x18410004 ∧
       checkWord s.params 0x18410004 = .error .illegalMicroOp) ∧
    (let s : State := { running 0 with params := { small with urom := [0x04410005] } }
     SequencersTurn s ∧ s.params.urom[s.upc]? = some 0x04410005 ∧
       checkWord s.params 0x04410005 = .error .operandFault) := by decide

theorem witness_CheckFaultWritesNothing :
    (Instr.copy .work .input 5).isMicroOp = true ∧
    legalityFault (running 0).params (.copy .work .input 5) = some .operandFault := by decide

/-- Sources that hold no value, up to the last lane. -/
theorem witness_UnwrittenSourceLaneFaults_first :
    (Instr.copy .acc .work 3).wellFormed ready.params = true ∧ ¬ Written (ready.realBuf .work) 3 ∧
    (let s : State := { ready with inp := [some 1, some 2, some 3, none] }
     (Instr.pack .fin .input 4).wellFormed s.params = true ∧ ¬ Written (s.realBuf .input) 4) := by decide

theorem witness_UnwrittenSourceLaneFaults_second :
    (Instr.add .acc .input .re 3).wellFormed ready.params = true ∧ Written (ready.realBuf .input) 3 ∧
    ¬ Written (ready.realBuf .re) 3 := by decide

theorem witness_UnwrittenSourceLaneFaults_tables :
    (let s : State := { full with hann := clearBuf full.hann }
     (Instr.winmul .work .input 4).wellFormed s.params = true ∧ Written (s.realBuf .input) 4 ∧ ¬ Written s.hann 4) ∧
    (let s : State := { full with pcoef := clearBuf full.pcoef }
     (Instr.pnorm .work .input 4).wellFormed s.params = true ∧ Written (s.realBuf .input) 4 ∧
       ¬ Written s.pcoef 4) := by decide

theorem witness_UnwrittenSourceLaneFaults_complex :
    (Instr.real .re .fout 3).wellFormed ready.params = true ∧ ¬ Written (ready.cplxBuf .fout) 3 ∧
    ¬ Written ready.fin ready.params.n := by decide

/-! ### Witnesses: the micro-ops -/

theorem witness_CopyMovesThePatterns :
    Memory.wf full ∧ (Instr.copy .acc .out 3).wellFormed full.params = true ∧ Written (full.realBuf .out) 3 := by decide

theorem witness_AddWritesTheSums :
    Memory.wf full ∧ (Instr.add .re .re .im 3).wellFormed full.params = true ∧
    Written (full.realBuf .re) 3 ∧ Written (full.realBuf .im) 3 ∧
    cellAt (full.realBuf .re) 2 = some 0x3F800000 ∧ cellAt (full.realBuf .im) 2 = some 0x3F800000 := by decide

theorem witness_MulWritesTheProducts :
    Memory.wf full ∧ (Instr.mul .work .input .hann 4).wellFormed full.params = true ∧
    Written (full.realBuf .input) 4 ∧ Written (full.realBuf .hann) 4 ∧
    cellAt (full.realBuf .input) 1 = some 0x40000000 ∧ cellAt (full.realBuf .hann) 1 = some 0x3F400000 := by decide

theorem witness_SqrtWritesTheRoots :
    Memory.wf full ∧ (Instr.sqrt .work .work 4).wellFormed full.params = true ∧ Written (full.realBuf .work) 4 ∧
    cellAt (full.realBuf .work) 0 = some 0x41100000 := by decide

theorem witness_SqrWritesTheSquares :
    Memory.wf full ∧ (Instr.sqr .out .re 3).wellFormed full.params = true ∧ Written (full.realBuf .re) 3 ∧
    cellAt (full.realBuf .re) 0 = some 0x40400000 := by decide

theorem witness_WinmulAppliesTheWindow :
    Memory.wf full ∧ (Instr.winmul .work .work 4).wellFormed full.params = true ∧
    Written (full.realBuf .work) 4 ∧ Written full.hann 4 ∧
    cellAt (full.realBuf .work) 1 = some 0x40800000 ∧ cellAt full.hann 1 = some 0x3F400000 := by decide

/-- both values of `POWER_PATH` -/
theorem witness_CmagWritesTheMagnitudes :
    Memory.wf full ∧ (Instr.cmag .acc .re .im 3).wellFormed full.params = true ∧
    Written (full.realBuf .re) 3 ∧ Written (full.realBuf .im) 3 ∧
    cellAt (full.realBuf .re) 0 = some 0x40400000 ∧ cellAt (full.realBuf .im) 0 = some 0x40800000 ∧
    (let s : State := { full with params := { small with powerPath := .direct } }
     Memory.wf s ∧ (Instr.cmag .acc .re .im 3).wellFormed s.params = true ∧
       Written (s.realBuf .re) 3 ∧ Written (s.realBuf .im) 3) := by decide

theorem witness_PnormWritesTheNormalizedPower :
    Memory.wf full ∧ (Instr.pnorm .acc .acc 3).wellFormed full.params = true ∧
    Written (full.realBuf .acc) 3 ∧ Written full.pcoef 3 ∧ cellAt (full.realBuf .acc) 2 = some 0x40A00000 ∧
    cellAt full.pcoef 2 = some 0x3D800000 := by decide

/-- both log modes -/
theorem witness_LogcWritesTheLogarithms :
    Memory.wf full ∧ (Instr.logc .out .acc 3).wellFormed full.params = true ∧ Written (full.realBuf .acc) 3 ∧
    cellAt (full.realBuf .acc) 2 = some 0x40A00000 ∧ full.logmodeL = false ∧
    (let s : State := { full with logmodeL := true }
     Memory.wf s ∧ (Instr.logc .out .acc 3).wellFormed s.params = true ∧ Written (s.realBuf .acc) 3) := by decide

theorem witness_PackBuildsTheComplexSequence :
    Memory.wf ready ∧ (Instr.pack .fin .input 4).wellFormed ready.params = true ∧
    Written (ready.realBuf .input) 4 ∧ cellAt (ready.realBuf .input) 3 = some 0x40800000 := by decide

/-- Which branch of the conclusion holds is a free value. -/
theorem witness_FftStoresTheAnswerOrFails :
    Memory.wf (running 3) ∧ (running 3).ctx = some ⟨7⟩ ∧
    ([⟨1, 2⟩, ⟨3, 4⟩, ⟨5, 6⟩, ⟨7, 8⟩] : List C32).length = (running 3).params.n ∧
    ∀ i < (running 3).params.n,
      cellAt (running 3).fin i = ([⟨1, 2⟩, ⟨3, 4⟩, ⟨5, 6⟩, ⟨7, 8⟩] : List C32)[i]? := by decide

theorem witness_RealTakesTheRealParts :
    Memory.wf full ∧ (Instr.real .re .fout 3).wellFormed full.params = true ∧ Written (full.cplxBuf .fout) 3 := by decide

theorem witness_ImagTakesTheImaginaryParts :
    Memory.wf full ∧ (Instr.imag .im .fout 3).wellFormed full.params = true ∧ Written (full.cplxBuf .fout) 3 := by decide

/-- a word of the opcode that is not zero, and the last `upc` a five-bit field can show -/
theorem witness_DoneEndsTheCommand :
    (fieldOp 0x00000001 = 0 ∧ (0x00000001 : Word) ≠ 0) ∧ (running 31).life = .ready ∧ (running 31).upc < 32 := by decide

/-! ### Witnesses: the commands -/

/-- not in its completion step: busy, idle and valid, idle and not valid -/
theorem witness_CommandsAreJudgedThenAccepted :
    ((running 3).cmdL ≠ some .construct ∧ (running 3).cmdL ≠ some .destroy ∧ (running 3).busy = true) ∧
    (State.reset.cmdL ≠ some .construct ∧ State.reset.busy = false ∧ State.reset.life = .uninitialized) ∧
    (ready.cmdL ≠ some .destroy ∧ ready.busy = false ∧ ready.life = .ready) := by decide

theorem witness_TransformStartsTheMicroProgram : ready.busy = false ∧ ready.life = .ready := by decide

/-- Which branch of the conclusion holds is a free value. -/
theorem witness_ConstructBuildsOrGivesBack : constructing.cmdL = some .construct ∧ Memory.wf constructing := by decide

theorem witness_DestroyReleasesEverything :
    destroying.cmdL = some .destroy ∧ destroying.ctx = some ⟨7⟩ ∧ Memory.wf destroying := by decide

/-- CONSTRUCT in `Ready`, TRANSFORM in `Uninitialized`, DESTROY in `Destroyed`, and the word 4. -/
theorem witness_RejectedCommandChangesErrAndDone :
    ready.busy = false ∧ ready.cmdL = none ∧
    (commanding ready 1).agenda = .host (cmdAccess ready.params 1) :: [] ∧
    (¬ ((1 : Word) = 1 ∧ ready.life = .uninitialized) ∧ ¬ ((1 : Word) = 2 ∧ ready.life = .ready) ∧
      ¬ ((1 : Word) = 3 ∧ ready.life = .ready)) ∧
    (let s := State.reset
     ¬ ((2 : Word) = 1 ∧ s.life = .uninitialized) ∧ ¬ ((2 : Word) = 2 ∧ s.life = .ready) ∧
      ¬ ((2 : Word) = 3 ∧ s.life = .ready)) ∧
    (let l := Life.destroyed
     ¬ ((3 : Word) = 1 ∧ l = .uninitialized) ∧ ¬ ((3 : Word) = 2 ∧ l = .ready) ∧ ¬ ((3 : Word) = 3 ∧ l = .ready)) ∧
    (¬ ((4 : Word) = 1 ∧ ready.life = .uninitialized) ∧ ¬ ((4 : Word) = 2 ∧ ready.life = .ready) ∧
      ¬ ((4 : Word) = 3 ∧ ready.life = .ready)) := by decide

theorem witness_BusyCmdStoreOnlySetsOvr :
    (commanding (running 3) 0x101).agenda = .host (cmdAccess (running 3).params 0x101) :: [] ∧
    (running 3).busy = true := by decide

/-! ### Witnesses: binary32 -/

theorem witness_FaddRoundsTheExactSum_and_FmulRoundsTheExactProduct : F32.isFinite 0x7F7FFFFF = true ∧ F32.isFinite 0x80000001 = true := by decide

theorem value_nonneg (a : F32) (h : a.sign = false) : 0 ≤ a.value := by
  simp only [F32.value, h, Bool.false_eq_true, if_false, one_mul]
  split <;> positivity

theorem value_zero (a : F32) (he : a.expo = 0) (hf : a.frac = 0) : a.value = 0 := by
  simp [F32.value, he, hf]

theorem value_opposite (a b : F32) (ha : a.sign = false) (hb : b.sign = true) (he : b.expo = a.expo)
    (hf : b.frac = a.frac) : a.value + b.value = 0 := by
  simp only [F32.value, ha, hb, he, hf, Bool.false_eq_true, if_false, if_true]
  ring

/-- the largest and the smallest number, and zero -/
theorem witness_FsqrtRoundsTheExactRoot : F32.isFinite 0x7F7FFFFF = true ∧ 0 ≤ F32.value 0x7F7FFFFF ∧
    F32.isFinite 0x00000001 = true ∧ 0 ≤ F32.value 0x00000001 ∧ 0 ≤ F32.value 0x80000000 :=
  ⟨by decide, value_nonneg _ (by decide), by decide, value_nonneg _ (by decide),
    (value_zero _ (by decide) (by decide)).ge⟩

/-- one operand pair for each clause -/
theorem witness_InfinitiesAndInvalidOperands :
    (F32.isNaN 0x7F800000 = false ∧ F32.isInf 0x7F800000 = true ∧ F32.isInf 0xFF800000 = true) ∧
    (F32.isNaN 0x7F7FFFFF = false ∧ F32.isInf 0x7F7FFFFF = false) ∧
    (F32.isNaN 0x80000000 = false ∧ F32.mag 0x80000000 = 0) ∧ F32.mag 0x00000001 ≠ 0 ∧
    F32.sign 0x7F800000 = false ∧ (F32.sign 0x80000001 = true ∧ F32.mag 0x80000001 ≠ 0) := by decide

theorem witness_SignsOfZerosAndProducts :
    F32.isFinite 0x3F800000 = true ∧ F32.isFinite 0xBF800000 = true ∧
    F32.value 0x3F800000 + F32.value 0xBF800000 = 0 ∧ F32.value 0x80000000 = 0 :=
  ⟨by decide, by decide, value_opposite _ _ (by decide) (by decide) (by decide) (by decide),
    value_zero _ (by decide) (by decide)⟩

/-- a NaN operand, and operands whose sum, product and root are NaNs -/
theorem witness_NaNResultsAreTheDrawnQuietNaN :
    F32.isNaN 0x7FA00001 = true ∧ (F32.fadd 0x7FC00000 0x7F800000 0xFF800000).isNaN = true ∧
    (F32.fmul 0x7FC00000 0x7F800000 0x00000000).isNaN = true ∧ (F32.fsqrt 0x7FC00000 0xBF800000).isNaN = true ∧
    (logcLane id id .propagate true 0x7FC00000 0x7FA00001).isNaN = true ∧
    (logcLane id id .propagate false 0x7FC00000 0x7FA00001).isNaN = true := by
  decide

/-- one operand for each clause; the third clause in both signs -/
theorem witness_ClampGivesFloorOrTheOperand :
    F32.isNaN 0x7FC00000 = true ∧ F32.isFinite 0x0DA2425F = true ∧ F32.isFinite 0x0DA24260 = true ∧
    F32.isInf 0x7F800000 = true ∧ F32.isInf 0xFF800000 = true ∧
    (clampLane .propagate 0xFF800000).isNaN = false := by decide

theorem witness_MagnitudeAndPowerAreNotNegative :
    F32.sign 0x38800000 = false ∧ (∀ k : Nat, ((fun _ => 0x7FC00000 : Nat → F32) k).isNaN = true) ∧
    (cmagLane .roundTrip (fun _ => 0x7FC00000) 0x80000000 0x80000000).isNaN = false ∧
    F32.sign 0x3F800000 = false ∧ (pnormLane .roundTrip (fun _ => 0x7FC00000) 0x3F800000 0x38800000).isNaN = false :=
  ⟨by decide, fun _ => (by decide : F32.isNaN 0x7FC00000 = true), by decide +kernel, by decide, by decide +kernel⟩

theorem witness_ConstantsAreRoundedOnce : (2 : Nat) ≤ 2046 ∧ 2046 ≤ 2046 := by decide

/-! ### Witnesses: equalities of kernels -/

theorem witness_PnormIsSqrThenMulByPcoef :
    Memory.wf full ∧ full.params.powerPath = .roundTrip ∧ (Instr.pnorm .out .acc 3).wellFormed full.params = true ∧
    Written (full.realBuf .acc) 3 ∧ Written full.pcoef 3 := by decide

/-- the destination is one of the sources -/
theorem witness_CmagIsItsFourKernels :
    Memory.wf full ∧ full.params.powerPath = .roundTrip ∧ BufId.isRealW .re = true ∧ BufId.isRealW .im = true ∧
    BufId.re ≠ BufId.im ∧ (Instr.cmag .re .re .im 3).wellFormed full.params = true ∧
    Written (full.realBuf .re) 3 ∧ Written (full.realBuf .im) 3 := by decide

theorem witness_LanesInAnyOrder :
    Memory.wf full ∧ BufId.isRealW .re = true ∧ 3 ≤ full.params.bufLen .re ∧
    Written (full.realBuf .re) 3 ∧ Written (full.realBuf .im) 3 ∧ ([2, 0, 1] : List Nat).Perm (List.range 3) := by
  decide

/-! ### Witnesses: the host port -/

/-- the last element of `IN` and of `OUT`, with and without a value -/
theorem witness_HostLoadReadsTheMap :
    full.params.wf ∧ 3 < full.params.n ∧ cellAt full.inp 3 = some 0x40800000 ∧
    2 < full.params.n / 2 + 1 ∧ cellAt full.out 2 = some 2 ∧ cellAt ready.out 2 = none ∧
    0x1010 < 0x4000 ∧ (0x1000 + 4 * full.params.n ≤ 0x1010 ∧ 0x1010 < 0x3000) := by decide

theorem witness_HostStoreWritesTheMap :
    full.params.wf ∧ Memory.wf full ∧ 3 < full.params.n ∧ 2 < full.params.n / 2 + 1 := by decide

/-- each way to miss the map, at its edges -/
theorem witness_BusErrorChangesNothing :
    full.params.wf ∧ full.params.n = 4 ∧ (2 : Nat) ≠ 4 ∧ 0x0009 % 4 ≠ 0 ∧ (0x0018 ≤ 0x0018 ∧ 0x0FFC < 0x1000) ∧
    (0x1000 + 4 * full.params.n ≤ 0x1010 ∧ 0x2FFC < 0x3000) ∧ 0x3000 + 4 * (full.params.n / 2 + 1) ≤ 0x300C ∧
    0x3FFC < 0x4000 := by decide

theorem witness_StatusShowsItsFields : (running 31).upc < 32 := by decide

/-! ### Witnesses: reset and the whole machine -/

theorem witness_ResetInputGivesTheResetValues : ({ running 5 with agenda := [.reset] } : State).agenda = .reset :: [] := by decide

theorem vacant_of_all {α : Type} {b : Buffer α} (h : b.all Option.isNone = true) : Vacant b := by
  simpa [Vacant] using h

/-- A `Ready` state is checked field by field by evaluation. -/
theorem inv_of_ready {s : State} (hp : s.params.wf ∧ Memory.wf s) (hl : s.life = .ready ∧ s.ctx ≠ none ∧ TablesBuilt s)
    (hb : (s.busy = true ↔ s.cmdL ≠ none) ∧ (s.done = true → s.busy = false ∧ s.err = .noError))
    (hc : s.cmdL ≠ some .construct ∧ s.upc ≤ s.params.ulen) : s.Inv where
  params := hp.1
  memory := hp.2
  busy := hb.1
  done := hb.2
  ctx := iff_of_true hl.1 hl.2.1
  tables _ := hl.2.2
  noTables h := absurd hl.1 h
  noScratch h := absurd hl.1 h
  transform _ := hl.1
  construct h := absurd h hc.1
  destroy _ := hl.1
  upc := hc.2

/-- The invariant of a run holds of a written, idle, `Ready` instance, … -/
theorem full_inv : full.Inv := inv_of_ready (by decide) (by decide) (by decide) (by decide)

/-- … of one with a TRANSFORM in progress at any word of the normative program, … -/
theorem running_inv (u : Nat) (h : u ≤ 10) : (running u).Inv :=
  inv_of_ready ⟨full_inv.params, full_inv.memory⟩ ⟨rfl, full_inv.ctx.mp rfl, full_inv.tables rfl⟩
    (by simp [running, full, ready, State.powerOn])
    ⟨by simp [running], h⟩

/-- … of one with a DESTROY in progress, … -/
theorem destroying_inv : destroying.Inv := inv_of_ready (by decide) (by decide) (by decide) (by decide)

/-- … and of one with a CONSTRUCT in progress. -/
theorem constructing_inv : constructing.Inv where
  params := by decide
  memory := by decide
  busy := by decide
  done := by decide
  ctx := by decide
  tables h := absurd h (by decide)
  noTables _ := ⟨vacant_of_all (by decide), vacant_of_all (by decide)⟩
  noScratch _ := ⟨vacant_of_all (by decide), vacant_of_all (by decide), vacant_of_all (by decide),
    vacant_of_all (by decide), vacant_of_all (by decide), vacant_of_all (by decide)⟩
  transform := by decide
  construct := by decide
  destroy := by decide
  upc := by decide

theorem witness_EveryStepKeepsTheInvariant : (running 9).Inv ∧ ∃ t, step (running 9) = .next t :=
  ⟨running_inv 9 (by decide), _, rfl⟩

/-- one state for each way of `LifeMovesOnlyForward`: the life state stays, CONSTRUCT completes, DESTROY completes -/
theorem witness_LifeMovesOnlyForward :
    ((running 9).Inv ∧ (∃ t, step (running 9) = .next t) ∧ (running 9).agenda.head? ≠ some .reset) ∧
    (constructing.Inv ∧ (∃ t, step constructing = .next t) ∧ constructing.agenda.head? ≠ some .reset) ∧
    (destroying.Inv ∧ (∃ t, step destroying = .next t ∧ t.life = .destroyed) ∧
      destroying.agenda.head? ≠ some .reset) :=
  ⟨⟨running_inv 9 (by decide), ⟨_, rfl⟩, by decide⟩, ⟨constructing_inv, ⟨_, rfl⟩, by decide⟩,
    ⟨destroying_inv, ⟨_, rfl, rfl⟩, by decide⟩⟩

theorem witness_ConstantsChangeOnlyByTheirCommands :
    ∃ t, step destroying = .next t ∧ destroying.agenda.head? ≠ some .reset ∧ t.hann ≠ destroying.hann :=
  ⟨_, rfl, by decide, by decide⟩

/-- a host store changes `IN`; a micro-op changes `OUT` -/
theorem witness_CallerStateChangesOnlyWhereItMay :
    (∃ t, step { full with agenda := [.host (stIn small 3 9)] } = .next t ∧ t.inp ≠ full.inp) ∧
    (∃ t, step { running 0 with params := { small with urom := [encode (.copy .out .re 3)] } } = .next t ∧
      t.out ≠ full.out) :=
  ⟨⟨_, rfl, by decide⟩, ⟨_, rfl, by decide⟩⟩

/-- one state of each name, and of each `upc` of magnitude/power: the invariant, the program and the turn for all of
them, and `(cmd_l, upc)` with a next step for each -/
theorem witness_SequencerFollowsItsStateMachine :
    (∀ s ∈ [full, constructing, destroying, running 0, running 9],
      s.params.urom = normativeUrom s.params.n ∧ SequencersTurn s) ∧
    (full.Inv ∧ constructing.Inv ∧ destroying.Inv ∧ ∀ u ≤ 9, (running u).Inv) ∧
    (full.fsm = some .idle ∧ ∃ t, step full = .next t) ∧
    (constructing.fsm = some .sConstruct ∧ ∃ t, step constructing = .next t) ∧
    (destroying.fsm = some .sDestroy ∧ ∃ t, step destroying = .next t) ∧
    ((running 0).fsm = some .sLoad ∧ ∃ t, step (running 0) = .next t) ∧
    ((running 1).fsm = some .sWindow ∧ ∃ t, step (running 1) = .next t) ∧
    ((running 2).fsm = some .sPack ∧ ∃ t, step (running 2) = .next t) ∧
    ((running 3).fsm = some .sFft ∧ ∃ t, step (running 3) = .next t) ∧
    ((running 4).fsm = some .sMagpow ∧ ∃ t, step (running 4) = .next t) ∧
    ((running 5).fsm = some .sMagpow ∧ ∃ t, step (running 5) = .next t) ∧
    ((running 6).fsm = some .sMagpow ∧ ∃ t, step (running 6) = .next t) ∧
    ((running 7).fsm = some .sMagpow ∧ ∃ t, step (running 7) = .next t) ∧
    ((running 8).fsm = some .sLog ∧ ∃ t, step (running 8) = .next t) ∧
    ((running 9).fsm = some .sDone ∧ ∃ t, step (running 9) = .next t) :=
  ⟨by simp only [List.forall_mem_cons, List.not_mem_nil, false_imp_iff, implies_true, and_true]; decide,
    ⟨full_inv, constructing_inv, destroying_inv, fun u h => running_inv u (by omega)⟩,
    ⟨by decide, _, rfl⟩, ⟨by decide, _, rfl⟩, ⟨by decide, _, rfl⟩, ⟨by decide, _, rfl⟩, ⟨by decide, _, rfl⟩,
    ⟨by decide, _, rfl⟩, ⟨by decide, _, rfl⟩, ⟨by decide, _, rfl⟩, ⟨by decide, _, rfl⟩, ⟨by decide, _, rfl⟩,
    ⟨by decide, _, rfl⟩, ⟨by decide, _, rfl⟩, ⟨by decide, _, rfl⟩⟩

/-- Whether the engine fails is a free value. -/
theorem witness_TransformComputesTheLogPowerSpectrum :
    (commanding ready 2).Inv ∧ (commanding ready 2).params.urom = normativeUrom (commanding ready 2).params.n ∧
    (commanding ready 2).params.powerPath = .roundTrip ∧
    (commanding ready 2).agenda = [.host (cmdAccess (commanding ready 2).params 2)] ∧
    (commanding ready 2).busy = false ∧ (commanding ready 2).life = .ready ∧ (commanding ready 2).ctx = some ⟨7⟩ ∧
    ∀ i < (commanding ready 2).params.n, cellAt (commanding ready 2).inp i = some (ramp.getD i 0) := by
  refine ⟨inv_of_ready (by decide) (by decide) (by decide) (by decide), by decide, by decide, by decide,
    by decide, by decide, by decide, by decide⟩

theorem witness_CommandsEndInBoundedSteps : (running 0).Inv ∧ (running 0).busy = true ∧ (running 0).agenda = [] :=
  ⟨running_inv 0 (by decide), by decide, by decide⟩

theorem witness_ProtocolHostDoesNotDisturb :
    ∀ u ∈ ([.host (ldStatus small), .sequencer, .host (ldStatus small)] : List Turn),
      protocolTurn (running 0).params u = true := by decide

end Sys2Proof.Tests
end

section
/-!
The reset input (10_state.md R39): what the step is when the reset input is next, and what the reset state holds.
-/

namespace Sys2Proof.Machine

/-- On the reset input's turn the step is the reset, with the turn taken off the agenda. -/
theorem step_of_agenda_reset {s : State} {rest : List Turn} (h : s.agenda = .reset :: rest) :
    step s = .next (State.resetInput { s with agenda := rest }) := by
  rw [step, h]

@[simp] theorem resetInput_params (s : State) : s.resetInput.params = s.params := rfl

/-- The caller's two buffers hold no value after a reset. -/
theorem vacant_resetInput_caller (s : State) : Vacant s.resetInput.inp ∧ Vacant s.resetInput.out :=
  ⟨vacant_replicate _, vacant_replicate _⟩

theorem scratchVacant_resetInput (s : State) : ScratchVacant s.resetInput :=
  ⟨vacant_replicate _, vacant_replicate _, vacant_replicate _, vacant_replicate _, vacant_replicate _,
    vacant_replicate _⟩

/-- The constant buffers hold no value after a reset: CONSTRUCT fills them. -/
theorem vacant_resetInput_tables (s : State) : Vacant s.resetInput.hann ∧ Vacant s.resetInput.pcoef :=
  ⟨vacant_replicate _, vacant_replicate _⟩

theorem wf_resetInput (s : State) : Memory.wf s.resetInput := wf_powerOn s.params

/-- No field that `STATUS` shows depends on the state before a reset, so the reference instance's word is every
instance's. -/
theorem statusWord_resetInput (s : State) : s.resetInput.statusWord = 0x00000000 :=
  calc s.resetInput.statusWord
    _ = State.reset.statusWord := rfl
    _ = 0x00000000 := by decide

/-- Settles O51: the flags and registers are literals of the reset state; the buffers, their lengths and `STATUS` are the
lemmas above. -/
theorem resetInputGivesTheResetValues : Obligations.ResetInputGivesTheResetValues := by
  intro s rest h
  obtain ⟨hinp, hout⟩ := vacant_resetInput_caller { s with agenda := rest }
  obtain ⟨hhann, hpcoef⟩ := vacant_resetInput_tables { s with agenda := rest }
  exact ⟨_, step_of_agenda_reset h, rfl, rfl, rfl, rfl, rfl, rfl, rfl, rfl, rfl, rfl, hinp, hout,
    scratchVacant_resetInput _, hhann, hpcoef, wf_resetInput _, resetInput_params _, statusWord_resetInput _⟩

end Sys2Proof.Machine
end

section
/-!
The host port (20_memory.md R62 to R67): which location an offset of the block reaches, which accesses miss the map, and
what a load of each location answers.
-/

namespace Sys2Proof.Machine

/-! ### The map by offset -/

/-- An access inside the block that no location answers: of another width, misaligned, or in one of the map's three gaps,
after `NBINS`, after `IN` and after `OUT` (R62, R66). -/
def MissesMap (p : Params) (off width : Nat) : Prop :=
  width ≠ 4 ∨ off % 4 ≠ 0 ∨ (0x0018 ≤ off ∧ off < 0x1000) ∨ (0x1000 + 4 * p.n ≤ off ∧ off < 0x3000) ∨
    0x3000 + 4 * (p.n / 2 + 1) ≤ off

/-- Inside the block, `BASE` plays no part. -/
theorem locate_base_add (p : Params) {off width : Nat} (hoff : off < 0x4000) :
    locate p (p.base + off) width = if width = 4 ∧ off % 4 = 0 then locAtOffset p off else none := by
  simp [locate, hoff]

theorem locAtOffset_input (p : Params) {n : Nat} (hn : n < p.n) :
    locAtOffset p (0x1000 + 4 * n) = some (.inElem n) := by
  have hin : 0x1000 ≤ 0x1000 + 4 * n ∧ 0x1000 + 4 * n < 0x1000 + 4 * p.n := by omega
  have helem : (0x1000 + 4 * n - 0x1000) / 4 = n := by omega
  rw [locAtOffset, if_pos hin, helem]
  repeat rw [if_neg (by omega)]

/-- `OUT` is reached at its own offsets because the largest legal `IN` ends below `0x3000`. -/
theorem locAtOffset_output {p : Params} (hp : p.n ≤ 2046) {k : Nat} (hk : k < p.nb) :
    locAtOffset p (0x3000 + 4 * k) = some (.outElem k) := by
  have hout : 0x3000 ≤ 0x3000 + 4 * k ∧ 0x3000 + 4 * k < 0x3000 + 4 * p.nb := by omega
  have helem : (0x3000 + 4 * k - 0x3000) / 4 = k := by omega
  rw [locAtOffset, if_pos hout, helem]
  repeat rw [if_neg (by omega)]

/-- No aligned offset in a gap of the map has a location. -/
theorem locAtOffset_gap {p : Params} (hp : p.n ≤ 2046) {off : Nat} (halign : off % 4 = 0)
    (hgap : MissesMap p off 4) : locAtOffset p off = none := by
  simp only [MissesMap, ne_eq, not_true_eq_false, halign, false_or] at hgap
  rw [locAtOffset, Params.nb]
  repeat rw [if_neg (by omega)]

theorem locate_missesMap {p : Params} (hp : p.n ≤ 2046) {off width : Nat} (hoff : off < 0x4000)
    (hmiss : MissesMap p off width) : locate p (p.base + off) width = none := by
  rw [locate_base_add p hoff]
  split
  next h =>
    obtain ⟨rfl, halign⟩ := h
    exact locAtOffset_gap hp halign hmiss
  next => rfl

/-! ### What an access answers -/

variable {s : State}

theorem hostAccess_load_of_locate_none {addr width : Nat} (h : locate s.params addr width = none) :
    hostAccess (.load addr width) s = .next (s.answer .busError) := by
  simp [hostAccess, h]

theorem hostAccess_store_of_locate_none {addr width : Nat} (v : Word) (h : locate s.params addr width = none) :
    hostAccess (.store addr width v) s = .next (s.answer .busError) := by
  simp [hostAccess, h]

/-- A 32-bit load of an aligned offset of the block is the load of the offset's location. -/
theorem hostAccess_load_of_locAtOffset {off : Nat} {loc : Loc} (hoff : off < 0x4000) (halign : off % 4 = 0)
    (hloc : locAtOffset s.params off = some loc) :
    hostAccess (.load (s.params.base + off) 4) s = loadLoc loc s := by
  simp [hostAccess, locate_base_add s.params hoff, halign, hloc]

theorem ctrlWord_eq_ite (s : State) : s.ctrlWord = if s.logmode then 1 else 0 := by
  rw [State.ctrlWord]
  cases s.logmode <;> rfl

theorem load_input_elem (hp : s.params.n ≤ 2046) {n : Nat} (hn : n < s.params.n) :
    hostAccess (.load (s.params.base + (0x1000 + 4 * n)) 4) s = s.loadCell .input (cellAt s.inp n) :=
  hostAccess_load_of_locAtOffset (by omega) (by omega) (locAtOffset_input s.params hn)

theorem load_output_elem (hp : s.params.n ≤ 2046) {k : Nat} (hk : k < s.params.n / 2 + 1) :
    hostAccess (.load (s.params.base + (0x3000 + 4 * k)) 4) s = s.loadCell .out (cellAt s.out k) :=
  hostAccess_load_of_locAtOffset (by omega) (by omega) (locAtOffset_output hp hk)

/-- Settles O47: each register sits at a literal offset, an element's load is its cell's, and every access that misses the
map is a bus error. -/
theorem hostLoadReadsTheMap : Obligations.HostLoadReadsTheMap := by
  intro s ⟨_, _, hn, _⟩ load answers
  have register (off : Nat) (loc : Loc) (hoff : off < 0x4000 ∧ off % 4 = 0)
      (hloc : locAtOffset s.params off = some loc) : load off = loadLoc loc s :=
    hostAccess_load_of_locAtOffset hoff.1 hoff.2 hloc
  have hctrl : loadLoc .ctrl s = answers (if s.logmode then 1 else 0) := by
    rw [← ctrlWord_eq_ite]; rfl
  refine ⟨register 0x0000 .id (by decide) rfl, register 0x0004 .cmd (by decide) rfl,
    register 0x0008 .status (by decide) rfl, (register 0x000C .ctrl (by decide) rfl).trans hctrl,
    register 0x0010 .nframe (by decide) rfl, register 0x0014 .nbins (by decide) rfl,
    fun n hlt => ?_, fun k hlt => ?_,
    fun off width hoff hmiss => hostAccess_load_of_locate_none (locate_missesMap hn hoff hmiss)⟩
  · refine (load_input_elem hn hlt).trans ?_
    cases cellAt s.inp n <;> rfl
  · refine (load_output_elem hn hlt).trans ?_
    cases cellAt s.out k <;> rfl

/-- Settles O49: an access that misses the map has no location, so load and store alike only answer the bus error. -/
theorem busErrorChangesNothing : Obligations.BusErrorChangesNothing := by
  intro s off width v ⟨_, _, hn, _⟩ hoff hmiss
  have hnone := locate_missesMap hn hoff hmiss
  exact ⟨hostAccess_load_of_locate_none hnone, hostAccess_store_of_locate_none v hnone⟩

end Sys2Proof.Machine
end

section
/-!
The two decoders against the tables of 30_encoding.md: the command decode of R92, and the rows of the opcode table (R112).
-/

namespace Sys2Proof

/-! ### The command decode (R92) -/

theorem fieldHz_append_fieldHop (v : Word) : fieldHz v ++ fieldHop v = v :=
  BitVec.extractLsb'_append_extractLsb'

/-- The two fields of a command word leave no bit out. -/
theorem eq_of_command_fields {u v : Word} (hz : fieldHz u = fieldHz v) (hop : fieldHop u = fieldHop v) : u = v := by
  rw [← fieldHz_append_fieldHop u, hz, hop, fieldHz_append_fieldHop]

/-- A word that is none of the three commands has `hz ≠ 0` or another `hop`. -/
theorem decodeCommand_illegal {v : Word} (h1 : v ≠ 1) (h2 : v ≠ 2) (h3 : v ≠ 3) :
    decodeCommand v = .error .illegalCommand := by
  rw [decodeCommand]
  split
  next hz =>
    split
    next hop => exact absurd (eq_of_command_fields hz (BitVec.eq_of_toNat_eq hop)) h1
    next hop => exact absurd (eq_of_command_fields hz (BitVec.eq_of_toNat_eq hop)) h2
    next hop => exact absurd (eq_of_command_fields hz (BitVec.eq_of_toNat_eq hop)) h3
    next => rfl
  next => rfl

/-- Settles O5: the three words decode by evaluation, and any other word differs from each of them in a field. -/
theorem commandDecodeTakesOneTwoThree : Obligations.CommandDecodeTakesOneTwoThree := by
  intro v
  split_ifs with h1 h2 h3
  · subst h1; rfl
  · subst h2; rfl
  · subst h3; rfl
  · exact decodeCommand_illegal h1 h2 h3

/-! ### What a row selects (R112) -/

variable {r : OpcodeRow} {w : Word}

theorem selects_iff : r.selects w = true ↔ w &&& r.mask = r.pattern := beq_iff_eq

/-- A row whose mask covers `op` fixes the opcode of the words that it selects. -/
theorem fieldOp_of_selects (hmask : fieldOp r.mask = BitVec.allOnes 6) (h : r.selects w = true) :
    fieldOp w = fieldOp r.pattern := by
  have hand : fieldOp (w &&& r.mask) = fieldOp w &&& fieldOp r.mask := BitVec.extractLsb'_and
  rw [← selects_iff.mp h, hand, hmask, BitVec.and_allOnes]

/-- A row whose mask covers `sb` fixes that field of the words that it selects. -/
theorem fieldSb_of_selects (hmask : fieldSb r.mask = BitVec.allOnes 5) (h : r.selects w = true) :
    fieldSb w = fieldSb r.pattern := by
  have hand : fieldSb (w &&& r.mask) = fieldSb w &&& fieldSb r.mask := BitVec.extractLsb'_and
  rw [← selects_iff.mp h, hand, hmask, BitVec.and_allOnes]

/-- A row whose mask is the whole word selects its pattern alone. -/
theorem eq_of_selects_whole (hmask : r.mask = 0xFFFFFFFF) (h : r.selects w = true) : w = r.pattern := by
  rw [← selects_iff.mp h, hmask, and_maskAll]

/-! ### A table against its decoder -/

/-- The word decodes to an instruction of the row's mnemonic. -/
def DecodesTo (decode : Word → Except DecodeError Instr) (r : OpcodeRow) (w : Word) : Prop :=
  ∃ i, decode w = .ok i ∧ i.mnemonic = r.mnemonic

/-- A table agrees with its decoder: its rows have names of their own, a word that a row selects decodes to the row's
mnemonic, and a word that decodes is selected by some row. -/
structure TableAgrees (decode : Word → Except DecodeError Instr) (rows : List OpcodeRow) : Prop where
  names : ∀ r ∈ rows, ∀ q ∈ rows, r.mnemonic = q.mnemonic → r = q
  sound : ∀ r ∈ rows, ∀ w, r.selects w = true → DecodesTo decode r w
  complete : ∀ w i, decode w = .ok i → ∃ r ∈ rows, r.selects w = true

variable {decode : Word → Except DecodeError Instr} {rows : List OpcodeRow}

/-- The row that selects a decodable word has the word's mnemonic, so it is the only row of that mnemonic. -/
theorem TableAgrees.selects_iff_decodesTo (h : TableAgrees decode rows) (hr : r ∈ rows) :
    r.selects w = true ↔ DecodesTo decode r w := by
  refine ⟨h.sound r hr w, fun ⟨i, hi, hname⟩ => ?_⟩
  obtain ⟨q, hq, hsel⟩ := h.complete w i hi
  obtain ⟨j, hj, hname'⟩ := h.sound q hq w hsel
  have hij : i = j := Except.ok.inj (hi.symm.trans hj)
  rw [h.names r hr q hq (by rw [← hname, hij, hname'])]
  exact hsel

theorem TableAgrees.none_selects_iff_error (h : TableAgrees decode rows) :
    (∀ r ∈ rows, r.selects w = false) ↔ ∃ e, decode w = .error e := by
  constructor
  · intro hnone
    cases hd : decode w with
    | error e => exact ⟨e, rfl⟩
    | ok i =>
      obtain ⟨r, hr, hsel⟩ := h.complete w i hd
      exact absurd hsel (by simp [hnone r hr])
  · intro ⟨e, he⟩ r hr
    by_contra hsel
    obtain ⟨i, hi, -⟩ := h.sound r hr w (by simpa using hsel)
    simp [he] at hi

/-! ### Format H -/

theorem commandTable_agrees : TableAgrees decodeCommand commandRows where
  names := by decide
  sound r hr w h := by
    have hmask : ∀ r ∈ commandRows, r.mask = 0xFFFFFFFF := by decide
    obtain rfl := eq_of_selects_whole (hmask r hr) h
    fin_cases hr <;> exact ⟨_, rfl, rfl⟩
  complete w i hi := by
    rw [commandDecodeTakesOneTwoThree w] at hi
    split_ifs at hi with h1 h2 h3
    · subst h1; decide
    · subst h2; decide
    · subst h3; decide

/-! ### Format U -/

/-- The row of DONE covers the whole word, which is then zero. -/
theorem decodesTo_done (hmask : r.mask = 0xFFFFFFFF) (hpat : r.pattern = 0) (hname : r.mnemonic = "DONE") (w : Word)
    (h : r.selects w = true) : DecodesTo decodeMicroOp r w := by
  have hw : w = 0 := (eq_of_selects_whole hmask h).trans hpat
  exact ⟨.done, by rw [hw]; rfl, hname.symm⟩

/-- The row of a micro-op with two sources fixes the opcode alone. -/
theorem decodesTo_binary (make : BufId → BufId → BufId → Nat → Instr) (hmask : fieldOp r.mask = BitVec.allOnes 6)
    (hname : ∀ d a b l, (make d a b l).mnemonic = r.mnemonic)
    (hdecode : ∀ w, fieldOp w = fieldOp r.pattern → decodeMicroOp w = decodeBinary make w) (w : Word)
    (h : r.selects w = true) : DecodesTo decodeMicroOp r w :=
  ⟨_, hdecode w (fieldOp_of_selects hmask h), hname _ _ _ _⟩

/-- The row of a micro-op with one source fixes the opcode and the must-be-zero `sb`. -/
theorem decodesTo_unary (make : BufId → BufId → Nat → Instr)
    (hmask : fieldOp r.mask = BitVec.allOnes 6 ∧ fieldSb r.mask = BitVec.allOnes 5 ∧ fieldSb r.pattern = 0)
    (hname : ∀ d a l, (make d a l).mnemonic = r.mnemonic)
    (hdecode : ∀ w, fieldOp w = fieldOp r.pattern → decodeMicroOp w = decodeUnary make w) (w : Word)
    (h : r.selects w = true) : DecodesTo decodeMicroOp r w := by
  obtain ⟨hop, hsb, hzero⟩ := hmask
  have hw : fieldSb w = 0 := (fieldSb_of_selects hsb h).trans hzero
  exact ⟨_, (hdecode w (fieldOp_of_selects hop h)).trans (if_pos hw), hname _ _ _⟩

/-- Row by row, the decoder's branch for the row's opcode. -/
theorem decodesTo_of_selects :
    ∀ r ∈ microOpRows, ∀ w, r.selects w = true → DecodesTo decodeMicroOp r w := by
  simp only [microOpRows, List.cons_append, List.nil_append, List.forall_mem_cons, List.not_mem_nil, false_imp_iff,
    implies_true, and_true]
  refine ⟨decodesTo_done rfl rfl rfl,
    decodesTo_unary .copy (by decide) (fun _ _ _ => rfl) ?_,
    decodesTo_binary .add (by decide) (fun _ _ _ _ => rfl) ?_,
    decodesTo_binary .mul (by decide) (fun _ _ _ _ => rfl) ?_,
    decodesTo_unary .sqrt (by decide) (fun _ _ _ => rfl) ?_,
    decodesTo_unary .sqr (by decide) (fun _ _ _ => rfl) ?_,
    decodesTo_unary .winmul (by decide) (fun _ _ _ => rfl) ?_,
    decodesTo_binary .cmag (by decide) (fun _ _ _ _ => rfl) ?_,
    decodesTo_unary .pnorm (by decide) (fun _ _ _ => rfl) ?_,
    decodesTo_unary .logc (by decide) (fun _ _ _ => rfl) ?_,
    decodesTo_unary .pack (by decide) (fun _ _ _ => rfl) ?_,
    decodesTo_unary .fft (by decide) (fun _ _ _ => rfl) ?_,
    decodesTo_unary .real (by decide) (fun _ _ _ => rfl) ?_,
    decodesTo_unary .imag (by decide) (fun _ _ _ => rfl) ?_⟩
  all_goals
    intro w hop
    rw [decodeMicroOp, hop]
    rfl

/-- A row with the two-source mask selects every word of its opcode. -/
theorem exists_row_of_fieldOp {op : Nat} (hop : (fieldOp w).toNat = op)
    (hrow : ∃ r ∈ microOpRows, r.mask = 0xFC000000 ∧ r.pattern = BitVec.ofNat 6 op ++ (0 : BitVec 26)) :
    ∃ r ∈ microOpRows, r.selects w = true := by
  obtain ⟨r, hr, hmask, hpat⟩ := hrow
  refine ⟨r, hr, selects_iff.mpr ?_⟩
  rw [hmask, hpat, and_maskOp, ← hop, BitVec.ofNat_toNat, BitVec.setWidth_eq]

/-- A row with the one-source mask selects every word of its opcode that decodes, the others having `sb ≠ 0`. -/
theorem exists_row_of_decodeUnary {op : Nat} {make : BufId → BufId → Nat → Instr} {i : Instr}
    (hop : (fieldOp w).toNat = op) (hi : decodeUnary make w = .ok i)
    (hrow : ∃ r ∈ microOpRows, r.mask = 0xFC00F800 ∧
      r.pattern = BitVec.ofNat 6 op ++ (0 : BitVec 10) ++ (0 : BitVec 5) ++ (0 : BitVec 11)) :
    ∃ r ∈ microOpRows, r.selects w = true := by
  have hsb : fieldSb w = 0 := by
    by_contra hne
    rw [decodeUnary, if_neg hne] at hi
    cases hi
  obtain ⟨r, hr, hmask, hpat⟩ := hrow
  refine ⟨r, hr, selects_iff.mpr ?_⟩
  rw [hmask, hpat, and_maskOpSb, hsb, ← hop, BitVec.ofNat_toNat, BitVec.setWidth_eq]

/-- Branch by branch of the decoder, the table's row for the branch's opcode. -/
theorem exists_row_of_decodes (w : Word) (i : Instr) (hi : decodeMicroOp w = .ok i) :
    ∃ r ∈ microOpRows, r.selects w = true := by
  rw [decodeMicroOp] at hi
  split at hi
  -- DONE, the reserved opcodes, the three micro-ops with two sources; the rest have one source
  case h_1 =>
    split at hi
    next hw => subst hw; decide
    next => cases hi
  case h_15 => cases hi
  case h_3 hop | h_4 hop | h_8 hop => exact exists_row_of_fieldOp hop (by decide)
  all_goals
    rename_i hop
    exact exists_row_of_decodeUnary hop hi (by decide)

theorem microOpTable_agrees : TableAgrees decodeMicroOp microOpRows where
  names := by decide
  sound := decodesTo_of_selects
  complete := exists_row_of_decodes

/-- Settles O4: each table agrees with its decoder, which gives both halves for its format. -/
theorem tableRowsSelectWhatDecodes : Obligations.TableRowsSelectWhatDecodes :=
  ⟨fun _ hr _ => microOpTable_agrees.selects_iff_decodesTo hr,
    fun _ hr _ => commandTable_agrees.selects_iff_decodesTo hr,
    fun _ => microOpTable_agrees.none_selects_iff_error,
    fun _ => commandTable_agrees.none_selects_iff_error, rfl, rfl⟩

end Sys2Proof
end

section
/-!
The vector kernels COPY, ADD, MUL, SQRT and SQR (40_vector_kernels.md R127 to R131): a legal form of the operand table
(R95) passes the machine's check, so that the lane shape behind the check runs.
-/

namespace Sys2Proof.Machine

variable {p : Params} {s : State} {op : Instr} {dst sa sb : BufId} {len : Nat}

/-! ### Legal forms pass the check (R95, R108) -/

theorem wfUnary_iff : Instr.wfUnary p dst sa len = true ↔
    (dst.isRealW = true ∧ sa.isReal = true) ∧ 1 ≤ len ∧ len ≤ p.bufLen dst ∧ len ≤ p.bufLen sa := by
  rw [Instr.wfUnary, Bool.and_eq_true, Bool.and_eq_true, decide_eq_true_iff]

theorem wfBinary_iff : Instr.wfBinary p dst sa sb len = true ↔
    (Instr.wfUnary p dst sa len = true ∧ sb.isReal = true) ∧ len ≤ p.bufLen sb := by
  rw [Instr.wfBinary, Bool.and_eq_true, Bool.and_eq_true, decide_eq_true_iff]

theorem missingBuf_of_isReal {b : BufId} (h : b.isReal = true) : missingBuf b = false := by
  simp [missingBuf_eq, h]

/-- The check of R108 from its three steps: every operand field names a buffer, of its class, and the lane count
passes. -/
theorem legalityFault_eq_none
    (hfields : ∀ u ∈ operandFields op, missingBuf u.1 = false ∧ u.2.admits u.1 = true)
    (hlen : badLen p op = false) : legalityFault p op = none := by
  have hid : ((operandFields op).any fun u => missingBuf u.1) = false :=
    List.any_eq_false.mpr fun u hu => by simp [(hfields u hu).1]
  have hclass : ((operandFields op).any fun u => !u.2.admits u.1) = false :=
    List.any_eq_false.mpr fun u hu => by simp [(hfields u hu).2]
  simp [legalityFault, hid, hclass, hlen]

/-- A lane count from 1 up to the length of every used buffer passes step 5 of the check (R106). -/
theorem laneCount_passes {bufs : List BufId} (hpos : 1 ≤ len) (hfit : ∀ b ∈ bufs, len ≤ p.bufLen b) :
    (decide (len = 0) || bufs.any fun b => decide (p.bufLen b < len)) = false := by
  have hzero : len ≠ 0 := by omega
  simpa [hzero] using hfit

/-! ### The check, then the lane shape -/

/-- A legal kernel of one real source completes, writes its lane function and keeps the frame (R122, R135). -/
theorem checked_unary_spec (hfields : operandFields op = [(dst, .realW), (sa, .real)])
    (hbad : badLen s.params op = (decide (len = 0) || [dst, sa].any fun b => decide (s.params.bufLen b < len)))
    (f : Nat → F32 → F32) (hm : Memory.wf s) (hwf : Instr.wfUnary s.params dst sa len = true)
    (ha : Written (s.realBuf sa) len) :
    ∃ t, s.checked op (s.unary dst sa len f) = .next t ∧ KernelFrame s t dst len ∧ t.port = s.port ∧
      ∀ i < len, ∀ x, cellAt (s.realBuf sa) i = some x → cellAt (t.realBuf dst) i = some (f i x) := by
  obtain ⟨⟨hd, hsa⟩, hpos, hfit⟩ := wfUnary_iff.mp hwf
  have hlen : badLen s.params op = false := hbad.trans (laneCount_passes hpos (by simpa using hfit))
  have hlegal : legalityFault s.params op = none :=
    legalityFault_eq_none (by simp [hfields, missingBuf_of_isReal, isReal_of_isRealW, hd, hsa]) hlen
  rw [checked_legal hlegal]
  exact unary_spec hm f (isReal_of_isRealW hd) hfit.1 ha

/-- A legal kernel of two real sources completes, writes its lane function and keeps the frame (R122, R135). -/
theorem checked_binary_spec (hfields : operandFields op = [(dst, .realW), (sa, .real), (sb, .real)])
    (hbad : badLen s.params op = (decide (len = 0) || [dst, sa, sb].any fun b => decide (s.params.bufLen b < len)))
    (f : Nat → F32 → F32 → F32) (hm : Memory.wf s) (hwf : Instr.wfBinary s.params dst sa sb len = true)
    (ha : Written (s.realBuf sa) len) (hb : Written (s.realBuf sb) len) :
    ∃ t, s.checked op (s.binary dst sa sb len f) = .next t ∧ KernelFrame s t dst len ∧ t.port = s.port ∧
      ∀ i < len, ∀ x y, cellAt (s.realBuf sa) i = some x → cellAt (s.realBuf sb) i = some y →
        cellAt (t.realBuf dst) i = some (f i x y) := by
  obtain ⟨⟨hunary, hsb⟩, hfitb⟩ := wfBinary_iff.mp hwf
  obtain ⟨⟨hd, hsa⟩, hpos, hfitd, hfita⟩ := wfUnary_iff.mp hunary
  have hlen : badLen s.params op = false :=
    hbad.trans (laneCount_passes hpos (by simpa using ⟨hfitd, hfita, hfitb⟩))
  have hlegal : legalityFault s.params op = none :=
    legalityFault_eq_none (by simp [hfields, missingBuf_of_isReal, isReal_of_isRealW, hd, hsa, hsb]) hlen
  rw [checked_legal hlegal]
  exact binary_spec hm f (isReal_of_isRealW hd) hfitd ha hb

/-! ### Each kernel is its check and its lane function -/

theorem exec_copy (dst sa : BufId) (len : Nat) (s : State) :
    exec (.copy dst sa len) s = s.checked (.copy dst sa len) (s.unary dst sa len fun _ x => x) := rfl

theorem exec_add (dst sa sb : BufId) (len : Nat) (s : State) :
    exec (.add dst sa sb len) s =
      s.checked (.add dst sa sb len) (s.binary dst sa sb len fun i x y => F32.fadd (freshNaN s.draws i 0) x y) := rfl

theorem exec_mul (dst sa sb : BufId) (len : Nat) (s : State) :
    exec (.mul dst sa sb len) s =
      s.checked (.mul dst sa sb len) (s.binary dst sa sb len fun i x y => F32.fmul (freshNaN s.draws i 0) x y) := rfl

theorem exec_sqrt (dst sa : BufId) (len : Nat) (s : State) :
    exec (.sqrt dst sa len) s =
      s.checked (.sqrt dst sa len) (s.unary dst sa len fun i x => F32.fsqrt (freshNaN s.draws i 0) x) := rfl

theorem exec_sqr (dst sa : BufId) (len : Nat) (s : State) :
    exec (.sqr dst sa len) s =
      s.checked (.sqr dst sa len) (s.unary dst sa len fun i x => F32.fmul (freshNaN s.draws i 0) x x) := rfl

/-! ### The obligations -/

/-- Settles O14: the lane function is the identity, and every source lane holds a value to copy. -/
theorem copyMovesThePatterns : Obligations.CopyMovesThePatterns := by
  intro s dst sa len hm hwf ha
  rw [exec_copy]
  obtain ⟨t, ht, hframe, hport, hlanes⟩ := checked_unary_spec (op := .copy dst sa len) rfl rfl (fun _ x => x) hm hwf ha
  refine ⟨t, ht, hframe, hport, fun i hi => ?_⟩
  obtain ⟨x, hx⟩ := Option.isSome_iff_exists.mp (ha i hi)
  exact (hlanes i hi x hx).trans hx.symm

/-- Settles O15: ADD is a kernel of two real sources with `fadd` as its lane function. -/
theorem addWritesTheSums : Obligations.AddWritesTheSums := by
  intro s dst sa sb len hm hwf ha hb
  rw [exec_add]
  exact checked_binary_spec rfl rfl _ hm hwf ha hb

/-- Settles O16: MUL is a kernel of two real sources with `fmul` as its lane function. -/
theorem mulWritesTheProducts : Obligations.MulWritesTheProducts := by
  intro s dst sa sb len hm hwf ha hb
  rw [exec_mul]
  exact checked_binary_spec rfl rfl _ hm hwf ha hb

/-- Settles O17: SQRT is a kernel of one real source with `fsqrt` as its lane function. -/
theorem sqrtWritesTheRoots : Obligations.SqrtWritesTheRoots := by
  intro s dst sa len hm hwf ha
  rw [exec_sqrt]
  exact checked_unary_spec rfl rfl _ hm hwf ha

/-- Settles O18: SQR is a kernel of one real source whose lane function is `fmul` of the element with itself. -/
theorem sqrWritesTheSquares : Obligations.SqrWritesTheSquares := by
  intro s dst sa len hm hwf ha
  rw [exec_sqr]
  exact checked_unary_spec rfl rfl _ hm hwf ha

end Sys2Proof.Machine
end

section
/-!
The micro-ops around the FFT engine: PACK, FFT, REAL and IMAG (42_fft_port.md R151, R154, R155, R160, R161). Each passes
the machine's check in its legal form; PACK, REAL and IMAG then run their lane shape, and FFT asks the engine once.
-/

namespace Sys2Proof.Machine

variable {p : Params} {s t : State} {op : Instr} {dst sa : BufId} {len : Nat}

/-! ### The legal forms pass the check (R95, R107, R108) -/

theorem missingBuf_of_isComplex {b : BufId} (h : b.isComplex = true) : missingBuf b = false := by
  simp [missingBuf_eq, h]

theorem wellFormed_pack_iff : (Instr.pack dst sa len).wellFormed p = true ↔
    (dst.isComplex = true ∧ sa.isReal = true) ∧ 1 ≤ len ∧ len ≤ p.bufLen dst ∧ len ≤ p.bufLen sa := by
  rw [Instr.wellFormed, Bool.and_eq_true, Bool.and_eq_true, decide_eq_true_iff]

theorem wellFormed_real_iff : (Instr.real dst sa len).wellFormed p = true ↔
    (dst.isRealW = true ∧ sa.isComplex = true) ∧ 1 ≤ len ∧ len ≤ p.bufLen dst ∧ len ≤ p.bufLen sa := by
  rw [Instr.wellFormed, Bool.and_eq_true, Bool.and_eq_true, decide_eq_true_iff]

/-- REAL and IMAG share one row of R95. -/
theorem wellFormed_imag_eq_real :
    (Instr.imag dst sa len).wellFormed p = (Instr.real dst sa len).wellFormed p := rfl

theorem legalityFault_pack (h : (Instr.pack dst sa len).wellFormed p = true) :
    legalityFault p (.pack dst sa len) = none := by
  obtain ⟨⟨hd, hsa⟩, hpos, hfit⟩ := wellFormed_pack_iff.mp h
  exact legalityFault_eq_none
    (by simp [operandFields, missingBuf_of_isComplex, missingBuf_of_isReal, hd, hsa])
    (laneCount_passes hpos (by simpa [operandFields, impliedBufs] using hfit))

theorem legalityFault_fft (p : Params) : legalityFault p (.fft .fout .fin p.n) = none :=
  legalityFault_eq_none (by simp [operandFields, missingBuf_eq, BufId.isComplex]) (by simp [badLen])

/-! ### Each micro-op is its check and its body -/

theorem exec_pack (dst sa : BufId) (len : Nat) (s : State) :
    exec (.pack dst sa len) s =
      s.checked (.pack dst sa len) (s.toComplex dst sa len fun x => { re := x, im := 0 }) := rfl

theorem exec_real (dst sa : BufId) (len : Nat) (s : State) :
    exec (.real dst sa len) s = s.checked (.real dst sa len) (s.fromComplex dst sa len C32.re) := rfl

theorem exec_imag (dst sa : BufId) (len : Nat) (s : State) :
    exec (.imag dst sa len) s = s.checked (.imag dst sa len) (s.fromComplex dst sa len C32.im) := rfl

/-! ### REAL and IMAG: the check, then the lane shape -/

/-- A legal kernel from a complex to a real buffer completes, writes its projection and keeps the frame (R122, R135). -/
theorem checked_fromComplex_spec (hfields : operandFields op = [(dst, .realW), (sa, .complex)])
    (hbad : badLen s.params op = (decide (len = 0) || [dst, sa].any fun b => decide (s.params.bufLen b < len)))
    (f : C32 → F32) (hm : Memory.wf s) (hwf : (Instr.real dst sa len).wellFormed s.params = true)
    (ha : Written (s.cplxBuf sa) len) :
    ∃ t, s.checked op (s.fromComplex dst sa len f) = .next t ∧ KernelFrame s t dst len ∧ t.port = s.port ∧
      ∀ i < len, cellAt (t.realBuf dst) i = (cellAt (s.cplxBuf sa) i).map f := by
  obtain ⟨⟨hd, hsa⟩, hpos, hfit⟩ := wellFormed_real_iff.mp hwf
  have hlegal : legalityFault s.params op = none :=
    legalityFault_eq_none
      (by simp [hfields, missingBuf_of_isReal, missingBuf_of_isComplex, isReal_of_isRealW, hd, hsa])
      (hbad.trans (laneCount_passes hpos (by simpa using hfit)))
  rw [checked_legal hlegal]
  obtain ⟨t, ht, hframe, hport, hlanes⟩ := fromComplex_spec hm f (isReal_of_isRealW hd) hfit.1 ha
  refine ⟨t, ht, hframe, hport, fun i hi => ?_⟩
  obtain ⟨x, hx⟩ := Option.isSome_iff_exists.mp (ha i hi)
  rw [hlanes i hi x hx, hx, Option.map_some]

/-! ### FFT: the request and its two answers -/

/-- A buffer that holds the values `xs` reads them back. -/
theorem readLanes_of_cells {α : Type} {b : Buffer α} {xs : List α} (h : ∀ i < xs.length, cellAt b i = xs[i]?) :
    readLanes b xs.length = some xs := by
  have hw : Written b xs.length := fun i hi => by simp [h i hi, hi]
  obtain ⟨ys, hys⟩ := exists_readLanes hw
  obtain ⟨hlen, hcells⟩ := readLanes_some hys
  have hsame : ys = xs := List.ext_getElem hlen fun i hy hx =>
    Option.some.inj (by rw [← hcells i hy, h i hx, List.getElem?_eq_getElem hx])
  rw [hys, hsame]

/-- With a context and a full `FIN`, FFT presents the request and takes the engine's answer (R154, R158). -/
theorem exec_fft_answered {c : Ctx} {x : List C32} (hctx : s.ctx = some c)
    (hx : readLanes s.fin s.params.n = some x) :
    exec (.fft .fout .fin s.params.n) s =
      .next (({ s with port := some (.forward c x) } : State).forwardAnswer (Config.fftForwardOk s.draws)
        (Config.fftValue c x)) := by
  change s.checked _ _ = _
  rw [checked_legal (legalityFault_fft s.params)]
  simp only [State.withLanes, hx, hctx]

@[simp] theorem forwardAnswer_port (ok : Bool) (y : Nat → C32) : (s.forwardAnswer ok y).port = s.port := by
  cases ok
  · rfl
  · simp [State.forwardAnswer, State.storeCplx]

/-- The answer `ok` is a store of all of `FOUT` (R154). -/
theorem forwardAnswer_ok_spec (hm : Memory.wf s) (y : Nat → C32) :
    KernelFrame s (s.forwardAnswer true y) .fout s.params.n ∧
      ∀ k < s.params.n, cellAt (s.forwardAnswer true y).fout k = some (y k) := by
  have hstore : s.forwardAnswer true y = s.storeCplx .fout ((List.range s.params.n).map y) := rfl
  have hlen : ((List.range s.params.n).map y).length = s.params.n := by simp
  rw [hstore]
  refine ⟨by simpa only [hlen] using frame_storeCplx (s := s) rfl ((List.range s.params.n).map y), fun k hk => ?_⟩
  have hcell := cell_storeCplx hm (dst := .fout) rfl ((List.range s.params.n).map y) k (by omega) hlen.le
  rwa [List.getElem_map, List.getElem_range] at hcell

/-- The frame of a micro-op does not speak of the engine port (log entry 14). -/
theorem KernelFrame.of_port {q : Option EngineRequest} (h : KernelFrame { s with port := q } t dst len) :
    KernelFrame s t dst len where
  control := { h.control with }
  upc := h.upc
  otherReal := h.otherReal
  otherCplx := h.otherCplx
  beyondReal := h.beyondReal
  beyondCplx := h.beyondCplx

/-! ### The obligations -/

/-- Settles O23: PACK is a legal kernel from a real to a complex buffer. -/
theorem packBuildsTheComplexSequence : Obligations.PackBuildsTheComplexSequence := by
  intro s dst sa len hm hwf ha
  obtain ⟨⟨hd, -⟩, -, hfit, -⟩ := wellFormed_pack_iff.mp hwf
  rw [exec_pack, checked_legal (legalityFault_pack hwf)]
  exact toComplex_spec hm (fun x => { re := x, im := 0 }) hd hfit ha

/-- Settles O24: FFT takes the engine's answer in the asking state, and the two answers are the two branches. -/
theorem fftStoresTheAnswerOrFails : Obligations.FftStoresTheAnswerOrFails := by
  intro s c x hm hctx hlen hcells
  have hx : readLanes s.fin s.params.n = some x := hlen ▸ readLanes_of_cells (hlen ▸ hcells)
  refine ⟨_, exec_fft_answered hctx hx, forwardAnswer_port _ _, ?_⟩
  cases Config.fftForwardOk s.draws with
  | true =>
    obtain ⟨hframe, hfout⟩ :=
      forwardAnswer_ok_spec (s := { s with port := some (.forward c x) }) hm (Config.fftValue c x)
    exact ⟨hframe.of_port, hfout⟩
  | false =>
    obtain ⟨-, -, -, -, -, -, -, -, -, hfout⟩ := hm
    exact ⟨vacant_clearBuf s.fout, (length_clearBuf s.fout).trans hfout, rfl⟩

/-- Settles O25: REAL is a legal kernel from a complex to a real buffer that projects to the real part. -/
theorem realTakesTheRealParts : Obligations.RealTakesTheRealParts := by
  intro s dst sa len hm hwf ha
  rw [exec_real]
  exact checked_fromComplex_spec rfl rfl _ hm hwf ha

/-- Settles O26: IMAG is a legal kernel from a complex to a real buffer that projects to the imaginary part. -/
theorem imagTakesTheImaginaryParts : Obligations.ImagTakesTheImaginaryParts := by
  intro s dst sa len hm hwf ha
  rw [exec_imag]
  exact checked_fromComplex_spec rfl rfl _ hm (wellFormed_imag_eq_real ▸ hwf) ha

end Sys2Proof.Machine
end

section
/-!
The core kernels WINMUL, CMAG and PNORM (43_core_kernels.md R166, R168, R170). WINMUL and PNORM have the check of MUL with
their implied coefficient buffer as its second source, so all three are kernels of two real sources.
-/

namespace Sys2Proof.Machine

variable {p : Params} {s : State} {dst sa : BufId} {len : Nat}

/-! ### The implied coefficient buffer is a second source (R106, R166, R170) -/

theorem wfBinary_of_wellFormed_winmul (h : (Instr.winmul dst sa len).wellFormed p = true) :
    Instr.wfBinary p dst sa .hann len = true := by
  obtain ⟨hunary, hfit⟩ := Bool.and_eq_true_iff.mp h
  exact wfBinary_iff.mpr ⟨⟨hunary, rfl⟩, of_decide_eq_true hfit⟩

theorem wfBinary_of_wellFormed_pnorm (h : (Instr.pnorm dst sa len).wellFormed p = true) :
    Instr.wfBinary p dst sa .pcoef len = true :=
  wfBinary_of_wellFormed_winmul h

/-- An implied `HANN` is checked as the operand `HANN` is: its id and class pass, its length counts. -/
theorem legalityFault_winmul (p : Params) (dst sa : BufId) (len : Nat) :
    legalityFault p (.winmul dst sa len) = legalityFault p (.mul dst sa .hann len) := by
  simp [legalityFault, operandFields, badLen, impliedBufs, missingBuf_eq, BufId.isReal]

/-- An implied `PCOEF` is checked as the operand `PCOEF` is. -/
theorem legalityFault_pnorm (p : Params) (dst sa : BufId) (len : Nat) :
    legalityFault p (.pnorm dst sa len) = legalityFault p (.mul dst sa .pcoef len) := by
  simp [legalityFault, operandFields, badLen, impliedBufs, missingBuf_eq, BufId.isReal]

/-- Of its micro-op, the step template sees the fault alone. -/
theorem checked_congr {i j : Instr} (h : legalityFault s.params i = legalityFault s.params j) (body : Result) :
    s.checked i body = s.checked j body := by
  rw [State.checked, State.checked, h]

/-! ### Each kernel is its check and its lane function -/

theorem exec_winmul (dst sa : BufId) (len : Nat) (s : State) :
    exec (.winmul dst sa len) s =
      s.checked (.mul dst sa .hann len)
        (s.binary dst sa .hann len fun i x c => F32.fmul (freshNaN s.draws i 0) x c) :=
  checked_congr (legalityFault_winmul s.params dst sa len) _

theorem exec_cmag (dst sa sb : BufId) (len : Nat) (s : State) :
    exec (.cmag dst sa sb len) s =
      s.checked (.cmag dst sa sb len)
        (s.binary dst sa sb len fun i x y => cmagLane s.params.powerPath (freshNaN s.draws i) x y) := rfl

theorem exec_pnorm (dst sa : BufId) (len : Nat) (s : State) :
    exec (.pnorm dst sa len) s =
      s.checked (.mul dst sa .pcoef len)
        (s.binary dst sa .pcoef len fun i x c => pnormLane s.params.powerPath (freshNaN s.draws i) x c) :=
  checked_congr (legalityFault_pnorm s.params dst sa len) _

/-- The two power paths share the sum of the squares; `ROUNDTRIP` takes its root (R168, R178). -/
theorem cmagLane_eq_ite (path : PowerPath) (nan : Nat → F32) (x y : F32) :
    cmagLane path nan x y =
      if path = .roundTrip then
        F32.fsqrt (nan 3) (F32.fadd (nan 2) (F32.fmul (nan 0) x x) (F32.fmul (nan 1) y y))
      else F32.fadd (nan 2) (F32.fmul (nan 0) x x) (F32.fmul (nan 1) y y) := by
  cases path <;> simp [cmagLane]

/-- `ROUNDTRIP` squares the magnitude again; `DIRECT` has the power already (R170, R178). -/
theorem pnormLane_eq_ite (path : PowerPath) (nan : Nat → F32) (x c : F32) :
    pnormLane path nan x c =
      if path = .roundTrip then F32.fmul (nan 1) (F32.fmul (nan 0) x x) c else F32.fmul (nan 0) x c := by
  cases path <;> simp [pnormLane]

/-! ### The obligations -/

/-- Settles O19: WINMUL is a kernel of two real sources, the second one `HANN`, with `fmul` as its lane function. -/
theorem winmulAppliesTheWindow : Obligations.WinmulAppliesTheWindow := by
  intro s dst sa len hm hwf ha hhann
  rw [exec_winmul]
  exact checked_binary_spec rfl rfl _ hm (wfBinary_of_wellFormed_winmul hwf) ha hhann

/-- Settles O20: CMAG is a kernel of two real sources whose lane function follows the power path. -/
theorem cmagWritesTheMagnitudes : Obligations.CmagWritesTheMagnitudes := by
  intro s dst sa sb len hm hwf ha hb
  simp only [exec_cmag, cmagLane_eq_ite]
  exact checked_binary_spec rfl rfl _ hm hwf ha hb

/-- Settles O21: PNORM is a kernel of two real sources, the second one `PCOEF`, whose lane function follows the power
path. No lane is told apart, the Nyquist lane neither. -/
theorem pnormWritesTheNormalizedPower : Obligations.PnormWritesTheNormalizedPower := by
  intro s dst sa len hm hwf ha hpcoef
  simp only [exec_pnorm, pnormLane_eq_ite]
  exact checked_binary_spec rfl rfl _ hm (wfBinary_of_wellFormed_pnorm hwf) ha hpcoef

end Sys2Proof.Machine
end

section
/-!
Binary32 patterns as numbers (40_vector_kernels.md R123): the class of a pattern from its magnitude bits, the grid of
magnitudes that the magnitude bits index in order, and the comparison of R175 as the order of values.
-/

namespace Sys2Proof.F32

/-! ### Fields of a pattern -/

theorem frac_lt (a : F32) : a.frac < 2 ^ 23 := BitVec.isLt _

theorem expo_lt (a : F32) : a.expo < 2 ^ 8 := BitVec.isLt _

/-- The magnitude bits are the exponent field and the fraction side by side. -/
theorem mag_eq_expo_frac (a : F32) : a.mag = a.expo * 2 ^ 23 + a.frac := by
  simp only [mag, expo, frac, BitVec.extractLsb'_toNat, Nat.shiftRight_eq_div_pow]
  omega

theorem isFinite_iff (a : F32) : a.isFinite = true ↔ a.mag < infMag := by
  have := a.frac_lt
  have := a.expo_lt
  rw [isFinite, bne_iff_ne, mag_eq_expo_frac, infMag]
  omega

theorem isInf_iff (a : F32) : a.isInf = true ↔ a.mag = infMag := by
  have := a.frac_lt
  have := a.expo_lt
  rw [isInf, Bool.and_eq_true, beq_iff_eq, beq_iff_eq, mag_eq_expo_frac, infMag]
  omega

theorem isNaN_iff (a : F32) : a.isNaN = true ↔ infMag < a.mag := by
  have := a.frac_lt
  have := a.expo_lt
  rw [isNaN, Bool.and_eq_true, beq_iff_eq, bne_iff_ne, mag_eq_expo_frac, infMag]
  omega

theorem isNaN_eq_false_iff (a : F32) : a.isNaN = false ↔ a.mag ≤ infMag := by
  rw [← Bool.not_eq_true, isNaN_iff, not_lt]

@[simp] theorem sign_ofMag (s : Bool) (m : Nat) : (ofMag s m).sign = s := by
  simp only [sign, ofMag, BitVec.getLsbD_append]
  simp

theorem mag_ofMag (s : Bool) {m : Nat} (h : m < 2 ^ 31) : (ofMag s m).mag = m := by
  rw [mag, ofMag, BitVec.extractLsb'_append_eq_right, BitVec.toNat_ofNat, Nat.mod_eq_of_lt h]

/-! ### The grid of magnitudes -/

/-- The magnitude with magnitude bits `m`, in units of 2⁻¹⁴⁹: the binade `m / 2²³ - 1` scales what is left of `m`. -/
def gridUnits (m : Nat) : Nat := (m - (m / 2 ^ 23 - 1) * 2 ^ 23) * 2 ^ (m / 2 ^ 23 - 1)

/-- Within a binade, its end included, the grid is linear. -/
theorem gridUnits_binade {e c : Nat} (hc : c ≤ 2 ^ 24) (he : e = 0 ∨ 2 ^ 23 ≤ c) :
    gridUnits (e * 2 ^ 23 + c) = c * 2 ^ e := by
  rcases hc.eq_or_lt with rfl | hlt
  · have hnext : (e * 2 ^ 23 + 2 ^ 24) / 2 ^ 23 - 1 = e + 1 := by omega
    have hrest : e * 2 ^ 23 + 2 ^ 24 - (e + 1) * 2 ^ 23 = 2 ^ 23 := by omega
    rw [gridUnits, hnext, hrest, pow_succ]
    ring
  · have hsame : (e * 2 ^ 23 + c) / 2 ^ 23 - 1 = e := by omega
    rw [gridUnits, hsame, Nat.add_sub_cancel_left]

theorem exists_binade (m : Nat) : ∃ e c, m = e * 2 ^ 23 + c ∧ c < 2 ^ 24 ∧ (e = 0 ∨ 2 ^ 23 ≤ c) :=
  ⟨m / 2 ^ 23 - 1, m - (m / 2 ^ 23 - 1) * 2 ^ 23, by omega, by omega, by omega⟩

theorem gridUnits_strictMono : StrictMono gridUnits := by
  refine strictMono_nat_of_lt_succ fun m => ?_
  obtain ⟨e, c, rfl, hc, he⟩ := exists_binade m
  rw [gridUnits_binade hc.le he, Nat.add_assoc, gridUnits_binade hc (by omega)]
  exact Nat.mul_lt_mul_of_pos_right c.lt_succ_self (Nat.two_pow_pos e)

@[simp] theorem gridUnits_zero : gridUnits 0 = 0 := by decide

theorem units_eq_gridUnits (a : F32) : a.units = gridUnits a.mag := by
  have hfrac := a.frac_lt
  rw [units, mag_eq_expo_frac]
  split
  next h =>
    rw [h, gridUnits_binade (by omega) (.inl rfl), pow_zero, mul_one]
  next h =>
    have hbinade : a.expo * 2 ^ 23 + a.frac = (a.expo - 1) * 2 ^ 23 + (2 ^ 23 + a.frac) := by omega
    rw [hbinade, gridUnits_binade (by omega) (.inr (by omega))]

/-- The value of a finite number counts its units of 2⁻¹⁴⁹. -/
theorem value_eq_signedUnits (a : F32) : a.value = (a.signedUnits : ℚ) / 2 ^ 149 := by
  have habs : (if a.expo = 0 then (a.frac : ℚ) * (2 : ℚ) ^ (-149 : ℤ)
      else (2 ^ 23 + (a.frac : ℚ)) * (2 : ℚ) ^ ((a.expo : ℤ) - 150)) = (a.units : ℚ) / 2 ^ 149 := by
    rw [units]
    split
    next h => rw [zpow_neg, div_eq_mul_inv]; rfl
    next h =>
      have hexp : (a.expo : ℤ) - 150 = ((a.expo - 1 : Nat) : ℤ) - (149 : Nat) := by omega
      rw [hexp, zpow_sub₀ two_ne_zero, zpow_natCast, zpow_natCast]
      push_cast
      ring
  rw [value, habs, signedUnits]
  split <;> push_cast <;> ring

/-! ### The comparison (R175) -/

/-- Between finite numbers the comparison of sign and magnitude bits is that of the values. -/
theorem flt_iff_value_lt {a b : F32} (ha : a.isFinite = true) (hb : b.isFinite = true) :
    flt a b = true ↔ a.value < b.value := by
  have hnan {c : F32} (h : c.isFinite = true) : c.isNaN = false :=
    c.isNaN_eq_false_iff.mpr (c.isFinite_iff.mp h).le
  have hlt := gridUnits_strictMono.lt_iff_lt (a := a.mag) (b := b.mag)
  have hgt := gridUnits_strictMono.lt_iff_lt (a := b.mag) (b := a.mag)
  have hposa := gridUnits_strictMono.lt_iff_lt (a := 0) (b := a.mag)
  have hposb := gridUnits_strictMono.lt_iff_lt (a := 0) (b := b.mag)
  rw [gridUnits_zero] at hposa hposb
  rw [value_eq_signedUnits, value_eq_signedUnits, div_lt_div_iff_of_pos_right (by positivity), Int.cast_lt]
  simp only [flt, hnan ha, hnan hb, Bool.not_false, Bool.true_and, decide_eq_true_eq, signedUnits, units_eq_gridUnits]
  split <;> split <;> omega

theorem flt_eq_false_of_isNaN {a : F32} (h : a.isNaN = true) (b : F32) : flt a b = false := by
  simp [flt, h]

end Sys2Proof.F32

namespace Sys2Proof

/-! ### The floor clamp under `PROPAGATE` (R175) -/

theorem clampLane_propagate (p : F32) :
    clampLane .propagate p = if F32.flt p 0x0DA24260 then 0x0DA24260 else p := rfl

/-- `FLOOR` is positive, so a number is below it by its sign or by its magnitude bits. -/
theorem flt_floor_iff {p : F32} (hnan : p.isNaN = false) :
    F32.flt p 0x0DA24260 = true ↔ p.sign = true ∨ p.mag < F32.mag 0x0DA24260 := by
  have hfloor : F32.isNaN 0x0DA24260 = false ∧ F32.sign 0x0DA24260 = false ∧ 0 < F32.mag 0x0DA24260 := by decide
  obtain ⟨hfnan, hfsign, hfpos⟩ := hfloor
  simp only [F32.flt, hnan, hfnan, hfsign, Bool.not_false, Bool.true_and, decide_eq_true_eq, Bool.false_eq_true,
    if_false]
  cases p.sign with
  | false => simp
  | true =>
    simp only [if_true, true_or, iff_true]
    omega

/-- An infinity is below `FLOOR` by its sign alone. -/
theorem flt_floor_iff_of_isInf {p : F32} (h : p.isInf = true) : F32.flt p 0x0DA24260 = true ↔ p.sign = true := by
  have hmag := p.isInf_iff.mp h
  have hfloor : ¬ F32.infMag < F32.mag 0x0DA24260 := by decide
  rw [flt_floor_iff (p.isNaN_eq_false_iff.mpr hmag.le), hmag, or_iff_left hfloor]

/-- Settles O40: for each class of operand, what the comparison with `FLOOR` answers. -/
theorem clampGivesFloorOrTheOperand : Obligations.ClampGivesFloorOrTheOperand := by
  intro p
  simp only [clampLane_propagate]
  refine ⟨fun h => ?_, fun h => ?_, fun h => ?_, ?_⟩
  · rw [F32.flt_eq_false_of_isNaN h, if_neg Bool.false_ne_true]
  · simp only [F32.flt_iff_value_lt h (b := 0x0DA24260) (by decide)]
  · simp only [flt_floor_iff_of_isInf h]
  · split
    next => exact fun _ => by decide
    next h =>
      intro hnan
      rw [flt_floor_iff hnan, not_or, not_lt] at h
      exact ⟨Bool.eq_false_iff.mpr h.1, h.2⟩

end Sys2Proof
end

section
/-!
Rounding (40_vector_kernels.md R133): `roundMag` picks the nearest point of the grid of magnitudes, ties to the even one,
and so rounds correctly the real number that its argument stands for. The two constants (R143, R176) are reciprocals
rounded in this way.
-/

namespace Sys2Proof.F32

/-! ### The nearest point of the grid -/

/-- `m` indexes the grid point nearest to `z` units of 2⁻¹⁴⁹, the even one if another is as near. The grid goes on beyond
the largest finite magnitude, as if the exponent had no end. -/
def NearestOnGrid (z : ℝ) (m : Nat) : Prop :=
  ∀ j : Nat, |(gridUnits m : ℝ) - z| ≤ |(gridUnits j : ℝ) - z| ∧
    (j ≠ m → |(gridUnits j : ℝ) - z| = |(gridUnits m : ℝ) - z| → m % 2 = 0)

variable {z : ℝ} {m j : Nat}

theorem gridUnits_le_of_le (h : j ≤ m) : (gridUnits j : ℝ) ≤ gridUnits m :=
  Nat.cast_le.mpr (gridUnits_strictMono.monotone h)

/-- A point at or below `z` is the nearest one when `z` is not past the middle to the next point. -/
theorem nearestOnGrid_of_le (hle : (gridUnits m : ℝ) ≤ z) (hhalf : 2 * z ≤ gridUnits m + gridUnits (m + 1))
    (htie : 2 * z = gridUnits m + gridUnits (m + 1) → m % 2 = 0) : NearestOnGrid z m := by
  intro j
  rw [abs_of_nonpos (sub_nonpos.mpr hle)]
  rcases lt_trichotomy j m with hj | rfl | hj
  · have hlow : (gridUnits j : ℝ) < gridUnits m := Nat.cast_lt.mpr (gridUnits_strictMono hj)
    rw [abs_of_nonpos (by linarith)]
    exact ⟨by linarith, fun _ heq => by linarith⟩
  · exact ⟨neg_le_abs _, fun hne => absurd rfl hne⟩
  · have hhigh := gridUnits_le_of_le hj
    rw [abs_of_nonneg (by linarith)]
    exact ⟨by linarith, fun _ heq => htie (by linarith)⟩

/-- A point at or above `z` is the nearest one when `z` is not short of the middle from the point before. -/
theorem nearestOnGrid_succ_of_ge (hge : z ≤ gridUnits (m + 1)) (hhalf : gridUnits m + gridUnits (m + 1) ≤ 2 * z)
    (htie : 2 * z = gridUnits m + gridUnits (m + 1) → (m + 1) % 2 = 0) : NearestOnGrid z (m + 1) := by
  intro j
  rw [abs_of_nonneg (sub_nonneg.mpr hge)]
  rcases lt_trichotomy j (m + 1) with hj | rfl | hj
  · have hlow := gridUnits_le_of_le (Nat.le_of_lt_succ hj)
    rw [abs_of_nonpos (by linarith)]
    exact ⟨by linarith, fun _ heq => htie (by linarith)⟩
  · exact ⟨le_abs_self _, fun hne => absurd rfl hne⟩
  · have hhigh : (gridUnits (m + 1) : ℝ) < gridUnits j := Nat.cast_lt.mpr (gridUnits_strictMono hj)
    rw [abs_of_nonneg (by linarith)]
    exact ⟨by linarith, fun _ heq => by linarith⟩

/-! ### From the grid to patterns -/

/-- The overflow threshold of R133 is the middle between the largest finite magnitude and 2¹²⁸. -/
theorem overflow_threshold :
    (gridUnits (infMag - 1) : ℝ) + gridUnits infMag = 2 * ((2 ^ 128 - 2 ^ 103) * 2 ^ 149) := by
  have hmax : gridUnits (infMag - 1) = (2 ^ 24 - 1) * 2 ^ 253 :=
    gridUnits_binade (e := 253) (c := 2 ^ 24 - 1) (by simp) (by simp)
  have hinf : gridUnits infMag = 2 ^ 24 * 2 ^ 253 := gridUnits_binade (e := 253) (c := 2 ^ 24) le_rfl (by simp)
  rw [hmax, hinf]
  norm_num

/-- Below the overflow threshold the nearest point is finite. -/
theorem NearestOnGrid.lt_infMag (h : NearestOnGrid z m) (hz : 2 * z < gridUnits (infMag - 1) + gridUnits infMag) :
    m < infMag := by
  by_contra hm
  have hbig := gridUnits_le_of_le (not_lt.mp hm)
  have hgap : (gridUnits (infMag - 1) : ℝ) < gridUnits infMag := Nat.cast_lt.mpr (gridUnits_strictMono (by decide))
  obtain ⟨hle, -⟩ := h (infMag - 1)
  rw [abs_of_nonneg (by linarith)] at hle
  rcases abs_cases ((gridUnits (infMag - 1) : ℝ) - z) with ⟨heq, -⟩ | ⟨heq, -⟩ <;> linarith

/-- From the threshold on it is no finite one: the largest finite magnitude is odd, so the tie goes up too. -/
theorem NearestOnGrid.infMag_le (h : NearestOnGrid z m) (hz : gridUnits (infMag - 1) + gridUnits infMag ≤ 2 * z) :
    infMag ≤ m := by
  by_contra hm
  have hsmall : (gridUnits m : ℝ) ≤ gridUnits (infMag - 1) := gridUnits_le_of_le (by omega)
  have hgap : (gridUnits (infMag - 1) : ℝ) < gridUnits infMag := Nat.cast_lt.mpr (gridUnits_strictMono (by decide))
  obtain ⟨hle, htie⟩ := h infMag
  rw [abs_of_nonpos (by linarith : (gridUnits m : ℝ) - z ≤ 0)] at hle htie
  rcases abs_cases ((gridUnits infMag : ℝ) - z) with ⟨heq, -⟩ | ⟨heq, -⟩
  · have heven : m % 2 = 0 := htie (by omega) (by linarith)
    have hmax : (gridUnits m : ℝ) = gridUnits (infMag - 1) := by linarith
    rw [gridUnits_strictMono.injective (Nat.cast_injective hmax)] at heven
    exact absurd heven (by decide)
  · linarith

/-- Of the signed values, too, the nearest grid point is a nearest one: a negative value is no nearer than 0. -/
theorem NearestOnGrid.among_signedUnits (hz : 0 ≤ z) (h : NearestOnGrid z m) (y : F32) :
    |(gridUnits m : ℝ) - z| ≤ |(y.signedUnits : ℝ) - z| ∧
      (y.signedUnits ≠ gridUnits m → |(y.signedUnits : ℝ) - z| = |(gridUnits m : ℝ) - z| → m % 2 = 0) := by
  have hnonneg : (0 : ℝ) ≤ gridUnits y.mag := Nat.cast_nonneg _
  obtain ⟨hle, htie⟩ := h y.mag
  rw [signedUnits, units_eq_gridUnits]
  split
  next =>
    have hneg : |(((-(gridUnits y.mag : ℤ)) : ℤ) : ℝ) - z| = gridUnits y.mag + z := by
      push_cast
      rw [abs_of_nonpos (by linarith)]
      ring
    have hzero : |(gridUnits m : ℝ) - z| ≤ z := by
      simpa [abs_of_nonneg hz] using (h 0).1
    rw [hneg]
    refine ⟨by linarith, fun hne heq => ?_⟩
    have hy : gridUnits y.mag = 0 := Nat.cast_eq_zero.mp (le_antisymm (by linarith) hnonneg)
    refine htie (fun hym => hne ?_) ?_
    · rw [← hym, hy]
      rfl
    · rw [← heq, hy]
      simp [abs_of_nonneg hz]
  next =>
    exact ⟨by simpa using hle, fun hne heq => htie (fun hym => hne (by rw [hym])) (by simpa using heq)⟩

theorem signedUnits_ofMag_false (hm : m < 2 ^ 31) : (ofMag false m).signedUnits = gridUnits m := by
  simp [signedUnits, units_eq_gridUnits, mag_ofMag false hm]

/-- Counting in units of 2⁻¹⁴⁹ scales every distance alike. -/
theorem abs_value_sub (a : F32) (x : ℝ) :
    |(a.value : ℝ) - x| = |(a.signedUnits : ℝ) - x * 2 ^ 149| / 2 ^ 149 := by
  have hscale : (a.value : ℝ) - x = ((a.signedUnits : ℝ) - x * 2 ^ 149) / 2 ^ 149 := by
    rw [value_eq_signedUnits]
    push_cast
    ring
  rw [hscale, abs_div, abs_of_pos (by positivity : (0 : ℝ) < 2 ^ 149)]

/-- The nearest grid point, cut off at infinity, is the correctly rounded pattern. -/
theorem roundsTo_of_nearestOnGrid {x : ℝ} (hx : 0 ≤ x) (h : NearestOnGrid (x * 2 ^ 149) m) :
    RoundsTo x (ofMag false (min m infMag)) := by
  rw [RoundsTo, abs_of_nonneg hx]
  split
  next hlt =>
    have hm : m < infMag := h.lt_infMag (by rw [overflow_threshold]; linarith)
    have hm31 : m < 2 ^ 31 := hm.trans (by decide)
    have hmag : (ofMag false m).mag = m := mag_ofMag false hm31
    rw [min_eq_left hm.le]
    refine ⟨(isFinite_iff _).mpr (hmag.symm ▸ hm), fun y _ => ?_⟩
    obtain ⟨hle, htie⟩ := h.among_signedUnits (by positivity) y
    rw [abs_value_sub, abs_value_sub, signedUnits_ofMag_false hm31, Int.cast_natCast,
      div_le_div_iff_of_pos_right (by positivity), div_left_inj' (by positivity)]
    refine ⟨hle, fun hne heq => ?_⟩
    have heven : m % 2 = 0 := by
      refine htie (fun hunits => hne ?_) heq
      rw [value_eq_signedUnits, value_eq_signedUnits, signedUnits_ofMag_false hm31, hunits]
    have hfrac := mag_eq_expo_frac (ofMag false m)
    omega
  next hge =>
    rw [min_eq_right (h.infMag_le (by rw [overflow_threshold]; linarith))]
    exact ⟨by decide, by simp [hx]⟩

/-! ### What `roundMag` computes -/

/-- `n` stands for the real `y` as far as rounding to multiples of `2 ^ d` can see: both lie on the same side of every
multiple and of every middle between two. -/
def StandsFor (n d : Nat) (y : ℝ) : Prop :=
  ∀ t : Nat, (2 * n < t * 2 ^ d ↔ 2 * y < t * 2 ^ d) ∧ (2 * n = t * 2 ^ d ↔ 2 * y = t * 2 ^ d)

variable {n k d : Nat} {y : ℝ}

/-- The multiples of `2 ^ (k + e)` that `n` is compared with, told in units of 2⁻¹⁴⁹. -/
theorem StandsFor.compare_units {e : Nat} (h : StandsFor n (k + e) (z * 2 ^ k)) (t : Nat) :
    (t * 2 ^ (k + e) ≤ 2 * n ↔ (t : ℝ) * 2 ^ e ≤ 2 * z) ∧ (2 * n ≤ t * 2 ^ (k + e) ↔ 2 * z ≤ (t : ℝ) * 2 ^ e) ∧
      (2 * n = t * 2 ^ (k + e) ↔ 2 * z = (t : ℝ) * 2 ^ e) := by
  obtain ⟨hlt, heq⟩ := h t
  have hpos : (0 : ℝ) < 2 ^ k := by positivity
  have hscale : (t : ℝ) * 2 ^ (k + e) = t * 2 ^ e * 2 ^ k := by ring
  rw [hscale, ← mul_assoc] at hlt heq
  rw [mul_lt_mul_iff_left₀ hpos] at hlt
  rw [mul_left_inj' hpos.ne'] at heq
  exact ⟨by rw [← not_lt, hlt, not_lt], by rw [le_iff_lt_or_eq, hlt, heq, ← le_iff_lt_or_eq], heq⟩

/-- What `dropBits` keeps fits a binade: below 24 bits, and exactly 24 of them unless the result is subnormal. -/
theorem div_dropBits_bounds (n k : Nat) :
    n / 2 ^ dropBits n k < 2 ^ 24 ∧ (dropBits n k - k = 0 ∨ 2 ^ 23 ≤ n / 2 ^ dropBits n k) := by
  have hlog : n < 2 ^ (n.log2 + 1) := Nat.lt_log2_self
  refine ⟨?_, ?_⟩
  · rw [Nat.div_lt_iff_lt_mul (Nat.two_pow_pos _), ← pow_add]
    exact hlog.trans_le (Nat.pow_le_pow_right two_pos (by rw [dropBits]; omega))
  · rcases le_or_gt (n.log2 + 1 - 24) k with hle | hgt
    · exact .inl (by rw [dropBits]; omega)
    · right
      have hd : dropBits n k = n.log2 - 23 := by rw [dropBits]; omega
      have hn : n ≠ 0 := by rintro rfl; simp at hgt
      rw [Nat.le_div_iff_mul_le (Nat.two_pow_pos _), ← pow_add, hd, Nat.add_sub_cancel' (by omega)]
      exact Nat.log2_self_le hn

/-- The rounding shift goes down up to the middle and up from it, and at the middle to the even side. -/
theorem shiftRNE_cases (n d : Nat) :
    let q := n / 2 ^ d
    (shiftRNE n d = q ∧ 2 * q * 2 ^ d ≤ 2 * n ∧ 2 * n ≤ (2 * q + 1) * 2 ^ d ∧
        (2 * n = (2 * q + 1) * 2 ^ d → q % 2 = 0)) ∨
      (shiftRNE n d = q + 1 ∧ (2 * q + 1) * 2 ^ d ≤ 2 * n ∧ 2 * n ≤ 2 * (q + 1) * 2 ^ d ∧
        (2 * n = (2 * q + 1) * 2 ^ d → (q + 1) % 2 = 0)) := by
  intro q
  have hdiv : q * 2 ^ d + n % 2 ^ d = n := Nat.div_add_mod' n (2 ^ d)
  have hrem : n % 2 ^ d < 2 ^ d := Nat.mod_lt n (Nat.two_pow_pos d)
  have hlow : 2 * q * 2 ^ d = 2 * (q * 2 ^ d) := by ring
  have hmid : (2 * q + 1) * 2 ^ d = 2 * (q * 2 ^ d) + 2 ^ d := by ring
  have hhigh : 2 * (q + 1) * 2 ^ d = 2 * (q * 2 ^ d) + 2 * 2 ^ d := by ring
  rw [hlow, hmid, hhigh, shiftRNE]
  split <;> omega

/-- `roundMag`, before its cut at infinity, picks the grid point nearest to the number that `n` stands for. -/
theorem nearestOnGrid_roundMag (h : StandsFor n (dropBits n k) (z * 2 ^ k)) :
    NearestOnGrid z ((dropBits n k - k) * 2 ^ 23 + shiftRNE n (dropBits n k)) := by
  obtain ⟨hq, hbinade⟩ := div_dropBits_bounds n k
  have hcases := shiftRNE_cases n (dropBits n k)
  obtain ⟨e, he⟩ := Nat.exists_eq_add_of_le (show k ≤ dropBits n k from le_max_left _ _)
  rw [he] at h hq hbinade hcases ⊢
  rw [Nat.add_sub_cancel_left] at hbinade ⊢
  generalize n / 2 ^ (k + e) = q at hq hbinade hcases
  have hgrid : gridUnits (e * 2 ^ 23 + q) = q * 2 ^ e := gridUnits_binade hq.le hbinade
  have hnext : gridUnits (e * 2 ^ 23 + q + 1) = (q + 1) * 2 ^ e := by
    rw [Nat.add_assoc, gridUnits_binade hq (by omega)]
  have hpoint : ((2 * q : ℕ) : ℝ) * 2 ^ e = 2 * gridUnits (e * 2 ^ 23 + q) := by
    rw [hgrid]; push_cast; ring
  have hpoint' : ((2 * (q + 1) : ℕ) : ℝ) * 2 ^ e = 2 * gridUnits (e * 2 ^ 23 + q + 1) := by
    rw [hnext]; push_cast; ring
  have hmid : ((2 * q + 1 : ℕ) : ℝ) * 2 ^ e = gridUnits (e * 2 ^ 23 + q) + gridUnits (e * 2 ^ 23 + q + 1) := by
    rw [hgrid, hnext]; push_cast; ring
  obtain ⟨hge, hle, htie⟩ := h.compare_units (2 * q + 1)
  rw [hmid] at hge hle htie
  rcases hcases with ⟨hshift, hlow, hhalf, heven⟩ | ⟨hshift, hhalf, hhigh, heven⟩
  · have hdown := (h.compare_units (2 * q)).1.mp hlow
    rw [hpoint] at hdown
    rw [hshift]
    refine nearestOnGrid_of_le (by linarith) (hle.mp hhalf) fun heq => ?_
    have := heven (htie.mpr heq)
    omega
  · have hup := (h.compare_units (2 * (q + 1))).2.1.mp hhigh
    rw [hpoint'] at hup
    rw [hshift, ← Nat.add_assoc]
    refine nearestOnGrid_succ_of_ge (by linarith) (hge.mp hhalf) fun heq => ?_
    have := heven (htie.mpr heq)
    omega

/-- `roundMag` rounds correctly the non-negative real that its argument stands for (R133). -/
theorem roundsTo_roundMag {x : ℝ} (hx : 0 ≤ x) (h : StandsFor n (dropBits n k) (x * 2 ^ 149 * 2 ^ k)) :
    RoundsTo x (ofMag false (roundMag n k)) :=
  roundsTo_of_nearestOnGrid hx (nearestOnGrid_roundMag h)

/-! ### A reciprocal, rounded once -/

/-- An integer part with its sticky bit stands for twice the number, once a bit more than the sticky one is dropped. -/
theorem standsFor_withSticky {w : ℝ} {u : Nat} {cut : Bool} (hle : (u : ℝ) ≤ w) (hlt : w < u + 1)
    (hcut : cut = true ↔ (u : ℝ) ≠ w) (hd : 2 ≤ d) : StandsFor (withSticky u cut) d (w * 2) := by
  intro t
  obtain ⟨e, rfl⟩ := Nat.exists_eq_add_of_le hd
  have hnat : t * 2 ^ (2 + e) = 4 * (t * 2 ^ e) := by ring
  have hreal : (t : ℝ) * 2 ^ (2 + e) = 4 * (t * 2 ^ e : ℕ) := by push_cast; ring
  rw [hnat, hreal, withSticky]
  generalize t * 2 ^ e = v
  have hlt_iff : u < v ↔ w < v := by
    constructor
    · intro h
      have : (u : ℝ) + 1 ≤ v := by exact_mod_cast h
      linarith
    · intro h
      exact_mod_cast hle.trans_lt h
  have heq_iff : cut = false ∧ u = v ↔ w = v := by
    constructor
    · rintro ⟨hexact, rfl⟩
      by_contra hne
      simp [hcut.mpr (Ne.symm hne)] at hexact
    · rintro rfl
      have hu : u = v := le_antisymm (by exact_mod_cast hle) (Nat.lt_succ_iff.mp (by exact_mod_cast hlt))
      exact ⟨Bool.eq_false_iff.mpr fun h => hcut.mp h (by rw [hu]), hu⟩
  have hfour : 2 * (w * 2) = 4 * w := by ring
  rw [hfour, mul_lt_mul_iff_right₀ four_pos, mul_right_inj' four_ne_zero, ← hlt_iff, ← heq_iff]
  cases cut with
  | false => simp; omega
  | true => simp; omega

/-- The quotient of a division, with a sticky bit for the rest, stands for twice the fraction. -/
theorem standsFor_div (a : Nat) {c : Nat} (hc : 0 < c) (hd : 2 ≤ d) :
    StandsFor (withSticky (a / c) (a % c != 0)) d ((a : ℝ) / c * 2) := by
  have hpos : (0 : ℝ) < c := Nat.cast_pos.mpr hc
  have hsplit : (a : ℝ) / c = (a / c : ℕ) + (a % c : ℕ) / (c : ℝ) := by
    rw [eq_comm, eq_div_iff hpos.ne', add_mul, div_mul_cancel₀ _ hpos.ne']
    exact_mod_cast Nat.div_add_mod' a c
  have hrest : ((a % c : ℕ) : ℝ) / c < 1 := (div_lt_one hpos).mpr (Nat.cast_lt.mpr (Nat.mod_lt a hc))
  have hnonneg : (0 : ℝ) ≤ ((a % c : ℕ) : ℝ) / c := by positivity
  refine standsFor_withSticky (by linarith) (by linarith) ?_ hd
  rw [hsplit, bne_iff_ne, ne_eq, ne_eq, left_eq_add, div_eq_zero_iff, or_iff_left hpos.ne', Nat.cast_eq_zero]

/-- The dropped bits leave the sticky bit and one more when the integer part fills a binary32 fraction. -/
theorem two_le_dropBits_withSticky {u : Nat} (hu : 2 ^ 24 ≤ u) (cut : Bool) (k : Nat) :
    2 ≤ dropBits (withSticky u cut) k := by
  have hn : 2 ^ 25 ≤ withSticky u cut := by rw [withSticky]; omega
  have hlog : 25 ≤ (withSticky u cut).log2 := (Nat.le_log2 (by omega)).mpr hn
  rw [dropBits]
  omega

/-- `1 / c` from the division of 2¹⁴⁹ by `c` with a sticky bit for its rest. -/
def reciprocal (c : Nat) : F32 :=
  ofMag false (roundMag (withSticky (2 ^ 149 / c) (2 ^ 149 % c != 0)) 1)

theorem roundsTo_reciprocal {c : Nat} (hpos : 0 < c) (hc : c ≤ 2 ^ 125) : RoundsTo (1 / (c : ℝ)) (reciprocal c) := by
  have hquot : 2 ^ 24 ≤ 2 ^ 149 / c := (Nat.le_div_iff_mul_le hpos).mpr (by omega)
  have hunits : 1 / (c : ℝ) * 2 ^ 149 * 2 ^ 1 = (2 ^ 149 : ℕ) / (c : ℝ) * 2 := by
    push_cast
    ring
  exact roundsTo_roundMag (by positivity)
    (hunits ▸ standsFor_div (2 ^ 149) hpos (two_le_dropBits_withSticky hquot _ 1))

end Sys2Proof.F32

namespace Sys2Proof

theorem pcoefVal_eq_reciprocal (n : Nat) : pcoefVal n = F32.reciprocal (n * n) := rfl

theorem floorValue_eq_reciprocal : Config.floorValue = F32.reciprocal (10 ^ 30) := by decide

/-- Settles O42: both constants are reciprocals of natural numbers, and the two patterns are evaluated. -/
theorem constantsAreRoundedOnce : Obligations.ConstantsAreRoundedOnce := by
  refine ⟨fun n hn hle => ?_, by decide, ?_, rfl⟩
  · have hc : n * n ≤ 2046 * 2046 := Nat.mul_le_mul hle hle
    rw [pcoefVal_eq_reciprocal, ← Nat.cast_mul]
    exact F32.roundsTo_reciprocal (Nat.mul_pos (by omega) (by omega)) (by omega)
  · have hc : (10 : ℝ) ^ (-30 : ℤ) = 1 / ((10 ^ 30 : ℕ) : ℝ) := by norm_num
    rw [floorValue_eq_reciprocal, hc]
    exact F32.roundsTo_reciprocal (by decide) (by decide)

end Sys2Proof
end

section
/-!
DONE, the end of the micro-program (44_pipeline_fsm.md R187): the words of its opcode, and `STATUS` as a number (R32).
-/

namespace Sys2Proof.Machine

/-! ### The words of opcode 0 (R94, R98) -/

/-- Every field of DONE beside its opcode must be zero. -/
theorem decodeMicroOp_of_fieldOp_zero {w : Word} (hop : fieldOp w = 0) :
    decodeMicroOp w = if w = 0 then .ok .done else .error .mustBeZero := by
  rw [decodeMicroOp, hop]
  rfl

/-- A word that does not decode is an illegal micro-op, whatever the reason (R108 steps 1 and 2). -/
theorem checkWord_of_decode_error (p : Params) {w : Word} {e : DecodeError} (h : decodeMicroOp w = .error e) :
    checkWord p w = .error .illegalMicroOp := by
  rw [checkWord, h]

/-! ### `STATUS` as a number -/

/-- Concatenation adds, since the low part stays below the weight of the high part. -/
theorem toNat_append_eq_add {m n : Nat} (x : BitVec m) (y : BitVec n) :
    (x ++ y).toNat = x.toNat * 2 ^ n + y.toNat := by
  rw [BitVec.toNat_append, ← Nat.shiftLeft_add_eq_or_of_lt y.isLt, Nat.shiftLeft_eq]

/-- Each field of `STATUS` counts with the weight of its lowest bit (R32). -/
theorem toNat_statusWord (s : State) :
    s.statusWord.toNat =
      s.life.code.toNat + 4 * s.busy.toNat + 8 * s.done.toNat + 16 * s.err.code.toNat + 256 * (s.upc % 32) +
        8192 * s.ovr.toNat := by
  simp only [State.statusWord, toNat_append_eq_add, BitVec.toNat_ofBool, BitVec.toNat_ofNat,
    BitVec.ofNat_eq_ofNat]
  omega

/-- After a successful end in `Ready` only `LIFE`, `DONE`, `UPC` and `OVR` are left for `STATUS` to show. -/
theorem statusWord_succeed {s : State} (hlife : s.life = .ready) (hupc : s.upc < 32) :
    s.succeed.statusWord = BitVec.ofNat 32 (9 + 256 * s.upc + (if s.ovr then 8192 else 0)) := by
  have hfields : s.succeed.statusWord.toNat = 9 + 256 * s.upc + 8192 * s.ovr.toNat := by
    simp [toNat_statusWord, hlife, Life.code, ErrCode.code, Nat.mod_eq_of_lt hupc]
  have hovr : (if s.ovr then 8192 else 0) = 8192 * s.ovr.toNat := by
    cases s.ovr <;> rfl
  rw [hovr, ← hfields, BitVec.ofNat_toNat, BitVec.setWidth_eq]

/-! ### The obligation -/

/-- Settles O27: of the words of opcode 0 only the zero word decodes, and the successful end is what DONE executes. -/
theorem doneEndsTheCommand : Obligations.DoneEndsTheCommand := by
  refine ⟨rfl, fun p w hop hw => ?_, fun s hlife hupc => ⟨s.succeed, rfl, rfl, statusWord_succeed hlife hupc⟩⟩
  exact checkWord_of_decode_error p ((decodeMicroOp_of_fieldOp_zero hop).trans (if_neg hw))

end Sys2Proof.Machine
end

section
/-!
The host commands (45_host_commands.md R201 to R211): what a `CMD` store is judged to be, and what the completion steps
of CONSTRUCT and DESTROY come to.
-/

namespace Sys2Proof.Machine

variable {s : State}

/-! ### A `CMD` store (R201, R202, R208) -/

/-- CONSTRUCT that is not in progress is its `CMD` store. -/
theorem exec_construct_of_not_inProgress (h : s.cmdL ≠ some .construct) :
    exec .construct s = .next (s.issue .construct) :=
  congrArg Host.Outcome.next (if_neg h)

/-- DESTROY that is not in progress is its `CMD` store. -/
theorem exec_destroy_of_not_inProgress (h : s.cmdL ≠ some .destroy) :
    exec .destroy s = .next (s.issue .destroy) :=
  congrArg Host.Outcome.next (if_neg h)

/-- TRANSFORM is judged as every command is, and its acceptance does R208 besides. -/
theorem exec_transform_eq_judged (s : State) :
    exec .transform s = .next (
      if s.busy then s.overrun
      else if s.life = .ready then { s.accept .transform with upc := 0, logmodeL := s.logmode }
      else s.reject .illegalState) := by
  change execTransform s = _
  rcases issue_cases s .transform with ⟨hbusy, hissue⟩ | ⟨hbusy, hlife, hissue⟩ | ⟨hbusy, hlife, hissue⟩
  · simp [execTransform, hissue, hbusy]
  · have hready : s.life = .ready := hlife
    simp [execTransform, hissue, hbusy, hready]
  · have hother : s.life ≠ .ready := hlife
    simp [execTransform, hissue, hbusy, hother]

/-! ### What a release gives back (R206, R211) -/

/-- After the release none of the buffers that CONSTRUCT acquires holds a value. -/
theorem vacant_releaseAll (s : State) :
    Vacant s.releaseAll.hann ∧ Vacant s.releaseAll.pcoef ∧ ScratchVacant s.releaseAll :=
  ⟨vacant_clearBuf _, vacant_clearBuf _, vacant_clearBuf _, vacant_clearBuf _, vacant_clearBuf _, vacant_clearBuf _,
    vacant_clearBuf _, vacant_clearBuf _⟩

/-! ### The completion step of CONSTRUCT (R205, R206) -/

/-- The state CONSTRUCT's completion builds on: `init` stands on the engine port exactly when the allocation is ok. -/
def State.initAsked (s : State) (allocOk : Bool) : State :=
  { s with draws := s.draws + 1, port := if allocOk then some (.init s.params.n) else s.port }

/-- The completion of CONSTRUCT turns on one question alone: has it got a context? -/
theorem completeConstruct_eq_elim (s : State) (allocOk : Bool) (answer : Option Ctx) :
    s.completeConstruct allocOk answer =
      (if allocOk then answer else none).elim (s.initAsked allocOk).constructFailed
        (s.initAsked allocOk).constructed := by
  cases allocOk with
  | false => rfl
  | true => cases answer <;> rfl

theorem exec_construct_of_inProgress (h : s.cmdL = some .construct) :
    exec .construct s = .next (s.completeConstruct (Config.allocOk s.draws) (Config.fftInit s.draws s.params.n)) :=
  congrArg Host.Outcome.next (if_pos h)

/-! ### The completion step of DESTROY (R211) -/

/-- With a context, DESTROY's completion asks the engine to release it and gives everything back. -/
theorem exec_destroy_of_inProgress {c : Ctx} (h : s.cmdL = some .destroy) (hctx : s.ctx = some c) :
    exec .destroy s = .next (State.succeed
      { State.releaseAll { s with port := some (.release c) } with life := .destroyed }) := by
  change execDestroy s = _
  rw [execDestroy, if_pos h, State.completeDestroy, hctx]

/-! ### The obligations -/

/-- Settles O28: outside its completion step a command is its `CMD` store, whose judgement is the model's `issue`. -/
theorem commandsAreJudgedThenAccepted : Obligations.CommandsAreJudgedThenAccepted := fun s =>
  ⟨exec_construct_of_not_inProgress, exec_transform_eq_judged s, exec_destroy_of_not_inProgress⟩

/-- Settles O30: the completion has got a context or not; without one all that was acquired is released. What the
statement says beside the vacancy and the lengths are fields of the two final states. -/
theorem constructBuildsOrGivesBack : Obligations.ConstructBuildsOrGivesBack := by
  intro s h
  refine ⟨_, exec_construct_of_inProgress h, ?_⟩
  rw [completeConstruct_eq_elim]
  cases (if Config.allocOk s.draws then Config.fftInit s.draws s.params.n else none) with
  | some c =>
    and_intros <;> rfl
  | none =>
    obtain ⟨hhann, hpcoef, hscratch⟩ := vacant_releaseAll (s.initAsked (Config.allocOk s.draws))
    exact ⟨rfl, rfl, rfl, rfl, rfl, rfl, rfl, rfl, rfl, rfl, rfl, rfl, rfl, rfl, hhann, hpcoef, hscratch,
      fun hm => wf_releaseAll (s := s.initAsked _) hm⟩

/-- Settles O31: the final state is a successful end after the release of everything. -/
theorem destroyReleasesEverything : Obligations.DestroyReleasesEverything := by
  intro s c h hctx
  obtain ⟨hhann, hpcoef, hscratch⟩ := vacant_releaseAll { s with port := some (.release c) }
  exact ⟨_, exec_destroy_of_inProgress h hctx, rfl, rfl, rfl, rfl, rfl, rfl, rfl, hhann, hpcoef, hscratch,
    fun hm => wf_releaseAll (s := { s with port := some (.release c) }) hm, rfl, rfl, rfl, rfl, rfl, rfl, rfl⟩

end Sys2Proof.Machine
end

section
/-!
The exceptions (60_exceptions.md R223 to R231): the turn of the sequencer and of the host, the fault entry of a bad fetch
or word, and the rejection of a `CMD` store.
-/

namespace Sys2Proof.Machine

variable {s : State} {v w : Word} {i : Instr} {e : ErrCode}

/-! ### Whose turn it is (R75) -/

/-- On its turn the sequencer steps from the state with the turn taken, whether the turn was listed or the agenda was
empty. -/
theorem step_of_sequencersTurn (h : SequencersTurn s) : step s = seqStep s.takeTurn := by
  rcases h with hnone | hseq
  · have hagenda : s.agenda = [] := List.head?_eq_none_iff.mp hnone
    have hsame : s.takeTurn = s := by rw [State.takeTurn, hagenda, List.tail_nil, ← hagenda]
    rw [step, hagenda, hsame]
  · obtain ⟨rest, hagenda⟩ := List.head?_eq_some_iff.mp hseq
    rw [step, State.takeTurn, hagenda, List.tail_cons]

theorem seqStep_of_transform (h : s.cmdL = some .transform) : seqStep s = microStep s := by
  rw [seqStep, h]

/-- The turn of the sequencer in a TRANSFORM is one micro-op. -/
theorem step_of_transform (hturn : SequencersTurn s) (h : s.cmdL = some .transform) :
    step s = microStep s.takeTurn :=
  (step_of_sequencersTurn hturn).trans (seqStep_of_transform h)

theorem step_of_agenda_host {a : Access} {rest : List Turn} (h : s.agenda = .host a :: rest) :
    step s = hostAccess a { s with agenda := rest } := by
  rw [step, h]

/-! ### The fault entry of the sequencer (R227) -/

theorem microStep_of_fetch_none (h : s.params.ulen ≤ s.upc) : microStep s = .next (s.raise .illegalMicroOp) := by
  have hfetch : fetch s = none := List.getElem?_eq_none h
  rw [microStep, hfetch]

/-- Steps 3 to 5 of R108 know two codes. -/
theorem legalityFault_code {p : Params} (h : legalityFault p i = some e) :
    e = .illegalMicroOp ∨ e = .operandFault := by
  rw [legalityFault] at h
  split_ifs at h
  · exact .inl (Option.some.inj h).symm
  · exact .inr (Option.some.inj h).symm
  · exact .inr (Option.some.inj h).symm

/-- The check of R108 fails in the decoder or on the decoded instruction. -/
theorem checkWord_error_cases {p : Params} (h : checkWord p w = .error e) :
    ((∃ d, decodeMicroOp w = .error d) ∧ e = .illegalMicroOp) ∨
      ∃ i, decodeMicroOp w = .ok i ∧ legalityFault p i = some e := by
  rw [checkWord] at h
  split at h
  next d hd => exact .inl ⟨⟨d, hd⟩, (Except.error.inj h).symm⟩
  next i hi =>
    split at h
    next e' he => exact .inr ⟨i, hi, Except.error.inj h ▸ he⟩
    next => cases h

/-- An instruction that fails the check only enters the fault: every kernel is behind the step template (R135), and DONE
and the commands have no operand to fail on. -/
theorem exec_of_legalityFault (h : legalityFault s.params i = some e) : exec i s = .next (s.raise e) := by
  cases i with
  | done | construct | transform | destroy => cases h
  | _ => exact checked_illegal h _

theorem microStep_of_checkWord_error (hfetch : fetch s = some w) (hcheck : checkWord s.params w = .error e) :
    microStep s = .next (s.raise e) := by
  rw [microStep, hfetch]
  obtain ⟨⟨d, hd⟩, rfl⟩ | ⟨i, hi, hfault⟩ := checkWord_error_cases hcheck
  · simp only [hd]
  · simpa only [hi] using exec_of_legalityFault hfault

/-- Settles O11: a micro-op whose fetch or check fails only enters the fault, and the check knows two codes. -/
theorem badFetchOrWordEndsTheCommand : Obligations.BadFetchOrWordEndsTheCommand := by
  intro s hturn hcmd
  refine ⟨fun hrange => (step_of_transform hturn hcmd).trans (microStep_of_fetch_none hrange),
    fun w e hfetch hcheck => ⟨?_, (step_of_transform hturn hcmd).trans (microStep_of_checkWord_error hfetch hcheck)⟩⟩
  obtain ⟨-, rfl⟩ | ⟨i, -, hfault⟩ := checkWord_error_cases hcheck
  · exact .inl rfl
  · exact legalityFault_code hfault

/-! ### The rejection of a `CMD` store (R201 step 3, R223) -/

/-- A `CMD` access reaches the `CMD` location in every instance and is answered. -/
theorem hostAccess_cmdAccess (s : State) (v : Word) :
    hostAccess (cmdAccess s.params v) s = storeCommand v (s.answer .stored) := by
  have hloc : locate s.params (s.params.base + 0x0004) 4 = some .cmd := by
    rw [locate_base_add s.params (by decide)]
    rfl
  simp only [cmdAccess, hostAccess, hloc, storeLoc]

/-- The host's turn with a store to `CMD` is that store, with the turn taken and the store answered. -/
theorem step_of_cmdStore {rest : List Turn} (h : s.agenda = .host (cmdAccess s.params v) :: rest) :
    step s = storeCommand v (State.answer { s with agenda := rest } .stored) :=
  (step_of_agenda_host h).trans (hostAccess_cmdAccess { s with agenda := rest } v)

theorem storeCommand_of_decode_ok (hbusy : s.busy = false) (h : decodeCommand v = .ok i) :
    storeCommand v s = exec i s := by
  simp [storeCommand, hbusy, h]

theorem storeCommand_of_decode_error {d : DecodeError} (hbusy : s.busy = false) (h : decodeCommand v = .error d) :
    storeCommand v s = .next (s.reject .illegalCommand) := by
  simp [storeCommand, hbusy, h]

theorem issue_of_wrong_life {c : Command} (hbusy : s.busy = false) (hlife : s.life ≠ lifeFor c) :
    s.issue c = s.reject .illegalState := by
  simp [State.issue, hbusy, hlife]

/-- An idle core rejects a word that is no command valid in its life state; a word that is a command is a wrong state,
any other is an illegal command. -/
theorem storeCommand_rejects (hbusy : s.busy = false) (hidle : s.cmdL = none)
    (hconstruct : ¬ (v = 1 ∧ s.life = .uninitialized)) (htransform : ¬ (v = 2 ∧ s.life = .ready))
    (hdestroy : ¬ (v = 3 ∧ s.life = .ready)) :
    storeCommand v s =
      .next (s.reject (if v = 1 ∨ v = 2 ∨ v = 3 then .illegalState else .illegalCommand)) := by
  split_ifs with hcommand
  · obtain rfl | rfl | rfl := hcommand
    · have hlife : s.life ≠ lifeFor .construct := fun h => hconstruct ⟨rfl, h⟩
      rw [storeCommand_of_decode_ok hbusy (i := .construct) rfl, exec_construct_of_not_inProgress (by simp [hidle]),
        issue_of_wrong_life hbusy hlife]
    · have hlife : s.life ≠ .ready := fun h => htransform ⟨rfl, h⟩
      rw [storeCommand_of_decode_ok hbusy (i := .transform) rfl, exec_transform_eq_judged]
      simp [hbusy, hlife]
    · have hlife : s.life ≠ lifeFor .destroy := fun h => hdestroy ⟨rfl, h⟩
      rw [storeCommand_of_decode_ok hbusy (i := .destroy) rfl, exec_destroy_of_not_inProgress (by simp [hidle]),
        issue_of_wrong_life hbusy hlife]
  · obtain ⟨h1, h2, h3⟩ : v ≠ 1 ∧ v ≠ 2 ∧ v ≠ 3 := by simpa only [not_or] using hcommand
    exact storeCommand_of_decode_error hbusy (decodeCommand_illegal h1 h2 h3)

/-- Settles O32: the host's turn is the `CMD` store, answered, and the idle core's rejection of it. -/
theorem rejectedCommandChangesErrAndDone : Obligations.RejectedCommandChangesErrAndDone := by
  intro s v rest hagenda hbusy hidle hconstruct htransform hdestroy
  exact (step_of_cmdStore hagenda).trans (storeCommand_rejects hbusy hidle hconstruct htransform hdestroy)

end Sys2Proof.Machine
end

section
/-!
Words and instructions, both ways (30_encoding.md sections 1 to 4): decoding an encoded instruction gives it back, and a
word that decodes is the encoding of what it decodes to.
-/

namespace Sys2Proof

open Sys2Proof.Machine

variable {p : Params} {i : Instr} {w : Word} {dst sa sb b : BufId} {len : Nat}

/-! ### From the instruction to its word and back -/

/-- Operand by operand the word of a micro-op reads as it was written; a command's word is evaluated. -/
theorem decodeAs_encode (h : i.encodable = true) : decodeAs i.isMicroOp (encode i) = .ok i := by
  cases i with
  | done | construct | transform | destroy => rfl
  | copy d a n | sqrt d a n | sqr d a n | winmul d a n | pnorm d a n | logc d a n | pack d a n | fft d a n
  | real d a n | imag d a n =>
    have hlen : n < 2048 := of_decide_eq_true h
    rw [encode, ← decodeUnary_encodeU _ _ d a hlen, Instr.isMicroOp, decodeAs, if_pos rfl, decodeMicroOp,
      fieldOp_encodeU]
    rfl
  | add d a b n | mul d a b n | cmag d a b n =>
    have hlen : n < 2048 := of_decide_eq_true h
    rw [encode, ← decodeBinary_encodeU _ _ d a b hlen, Instr.isMicroOp, decodeAs, if_pos rfl, decodeMicroOp,
      fieldOp_encodeU]
    rfl

/-- A legal core has no buffer longer than `N ≤ 2046`. -/
theorem bufLen_lt (h : p.wf) (b : BufId) : p.bufLen b < 2048 := by
  obtain ⟨-, -, hn, -⟩ := h
  have hnb : p.nb < 2048 := by rw [Params.nb]; omega
  cases b <;> simp only [Params.bufLen] <;> omega

/-- A lane count that fits a destination fits its 11-bit field. -/
theorem encodable_of_wellFormed (hp : p.wf) (h : i.wellFormed p = true) : i.encodable = true := by
  have fits {d : BufId} {n : Nat} (hn : n ≤ p.bufLen d) : decide (n < 2048) = true :=
    decide_eq_true (hn.trans_lt (bufLen_lt hp d))
  cases i with
  | done | construct | transform | destroy => rfl
  | copy d a n | sqrt d a n | sqr d a n | logc d a n => exact fits (wfUnary_iff.mp h).2.2.1
  | winmul d a n | pnorm d a n => exact fits (wfUnary_iff.mp (Bool.and_eq_true_iff.mp h).1).2.2.1
  | add d a b n | mul d a b n | cmag d a b n => exact fits (wfBinary_iff.mp h).2
  | pack d a n => exact fits (wellFormed_pack_iff.mp h).2.2.1
  | real d a n | imag d a n => exact fits (wellFormed_real_iff.mp h).2.2.1
  | fft d a n =>
    obtain ⟨-, -, hn⟩ := of_decide_eq_true h
    exact fits (d := .fout) hn.le

/-- Settles O2: the round trip for every lane count that fits, and the legal lane counts fit. -/
theorem decodeOfEncodeIsTheInstruction : Obligations.DecodeOfEncodeIsTheInstruction :=
  ⟨fun _ => decodeAs_encode, fun _ _ => encodable_of_wellFormed⟩

/-! ### From a word to its instruction and back -/

/-- The five fields of format U leave no bit out (R93). -/
theorem encodeU_fields (w : Word) :
    encodeU (fieldOp w) (.ofBits (fieldDst w)) (.ofBits (fieldSa w)) (.ofBits (fieldSb w)) (fieldLen w).toNat = w := by
  rw [encodeU, toBits_ofBits, toBits_ofBits, toBits_ofBits, BitVec.ofNat_toNat, BitVec.setWidth_eq]
  apply BitVec.eq_of_getLsbD_eq
  intro i hi
  simp only [fieldOp, fieldDst, fieldSa, fieldSb, fieldLen, BitVec.getLsbD_extractLsb', BitVec.getLsbD_append]
  interval_cases i <;> simp

/-- `i` is encoded by `w`, with a lane count that fits, in the format that the flag tells. -/
def EncodesTo (i : Instr) (microOp : Bool) (w : Word) : Prop :=
  encode i = w ∧ i.encodable = true ∧ i.isMicroOp = microOp

/-- A two-source branch of the decoder. -/
theorem encodesTo_of_decodeBinary {op : Nat} {make : BufId → BufId → BufId → Nat → Instr}
    (hop : (fieldOp w).toNat = op) (hi : decodeBinary make w = .ok i)
    (hmake : ∀ d a b l, l < 2048 → EncodesTo (make d a b l) true (encodeU (BitVec.ofNat 6 op) d a b l)) :
    EncodesTo i true w := by
  have henc := hmake (.ofBits (fieldDst w)) (.ofBits (fieldSa w)) (.ofBits (fieldSb w)) _ (fieldLen w).isLt
  rw [← hop, BitVec.ofNat_toNat, BitVec.setWidth_eq, encodeU_fields] at henc
  cases hi
  exact henc

/-- A one-source branch of the decoder: `sb` is zero, as the encoder writes it. -/
theorem encodesTo_of_decodeUnary {op : Nat} {make : BufId → BufId → Nat → Instr}
    (hop : (fieldOp w).toNat = op) (hi : decodeUnary make w = .ok i)
    (hmake : ∀ d a l, l < 2048 → EncodesTo (make d a l) true (encodeU (BitVec.ofNat 6 op) d a .noBuf l)) :
    EncodesTo i true w := by
  rw [decodeUnary] at hi
  split at hi
  next hsb =>
    have hword := encodeU_fields w
    have hnoBuf : BufId.ofBits 0 = .noBuf := rfl
    rw [hsb, hnoBuf] at hword
    have henc := hmake (.ofBits (fieldDst w)) (.ofBits (fieldSa w)) _ (fieldLen w).isLt
    rw [← hop, BitVec.ofNat_toNat, BitVec.setWidth_eq, hword] at henc
    cases hi
    exact henc
  next => cases hi

theorem encodesTo_of_decodeMicroOp (hi : decodeMicroOp w = .ok i) : EncodesTo i true w := by
  rw [decodeMicroOp] at hi
  split at hi
  -- DONE, the reserved opcodes, the three micro-ops with two sources; the rest have one source
  case h_1 =>
    split at hi
    next hw => cases hi; exact ⟨hw.symm, rfl, rfl⟩
    next => cases hi
  case h_15 => cases hi
  case h_3 hop | h_4 hop | h_8 hop =>
    exact encodesTo_of_decodeBinary hop hi fun _ _ _ _ hl => ⟨rfl, decide_eq_true hl, rfl⟩
  all_goals
    rename_i hop
    exact encodesTo_of_decodeUnary hop hi fun _ _ _ hl => ⟨rfl, decide_eq_true hl, rfl⟩

theorem encodesTo_of_decodeCommand (hi : decodeCommand w = .ok i) : EncodesTo i false w := by
  rw [commandDecodeTakesOneTwoThree w] at hi
  split_ifs at hi with h1 h2 h3
  · cases hi; exact ⟨h1.symm, rfl, rfl⟩
  · cases hi; exact ⟨h2.symm, rfl, rfl⟩
  · cases hi; exact ⟨h3.symm, rfl, rfl⟩

/-- Settles O3: branch by branch of the decoder of each format. -/
theorem encodeOfDecodeIsTheWord : Obligations.EncodeOfDecodeIsTheWord := by
  intro microOp w i hi
  cases microOp with
  | true => exact encodesTo_of_decodeMicroOp hi
  | false => exact encodesTo_of_decodeCommand hi

/-- Settles O1: the ten words are literals that the two decoders evaluate. -/
theorem decodeReadsTheWorkedWords : Obligations.DecodeReadsTheWorkedWords := by
  unfold Obligations.DecodeReadsTheWorkedWords
  decide

end Sys2Proof
end

section
/-!
What one step of the machine can do (20_memory.md R75, 44_pipeline_fsm.md R181, R182), said once for the sequencer's
turn, the host's and the reset input's; and the statements that read it off directly.
-/

namespace Sys2Proof.Machine

variable {s t : State} {a : Access} {e : ErrCode}

@[simp] theorem takeTurn_params (s : State) : s.takeTurn.params = s.params := rfl
@[simp] theorem takeTurn_cmdL (s : State) : s.takeTurn.cmdL = s.cmdL := rfl

/-! ### The sequencer's turn -/

theorem isMicroOp_of_decodeMicroOp {w : Word} {i : Instr} (h : decodeMicroOp w = .ok i) : i.isMicroOp = true := by
  obtain ⟨-, -, hi⟩ := encodesTo_of_decodeMicroOp h
  exact hi

theorem seqStep_of_idle (h : s.cmdL = none) : seqStep s = .next s := by
  rw [seqStep, h]

theorem seqStep_of_construct (h : s.cmdL = some .construct) : seqStep s = exec .construct s := by
  rw [seqStep, h]

theorem seqStep_of_destroy (h : s.cmdL = some .destroy) : seqStep s = exec .destroy s := by
  rw [seqStep, h]

theorem exec_destroy_completes (h : s.cmdL = some .destroy) : exec .destroy s = .next s.completeDestroy :=
  congrArg Host.Outcome.next (if_pos h)

/-- A micro-step has no word to run, which is `IllegalMicroOp`, or executes the micro-op at `UROM[upc]` (R181, R182). -/
theorem microStep_cases (s : State) :
    microStep s = .next (s.raise .illegalMicroOp) ∨
      ∃ w i, s.params.urom[s.upc]? = some w ∧ decodeMicroOp w = .ok i ∧ microStep s = exec i s := by
  cases hfetch : fetch s with
  | none => exact .inl (by rw [microStep, hfetch])
  | some w =>
    cases hdecode : decodeMicroOp w with
    | error d => exact .inl (by simp only [microStep, hfetch, hdecode])
    | ok i => exact .inr ⟨w, i, hfetch, hdecode, by simp only [microStep, hfetch, hdecode]⟩

/-- What a sequencer step that answers a next state has done: nothing, a completion step, a micro-op at an index of the
micro-program, or the fault entry for want of one (R181, R182). -/
inductive SequencerEffect (s : State) : State → Prop
  | idle (h : s.cmdL = none) : SequencerEffect s s
  | constructed (ok : Bool) (answer : Option Ctx) (h : s.cmdL = some .construct) :
      SequencerEffect s (s.completeConstruct ok answer)
  | destroyed (h : s.cmdL = some .destroy) : SequencerEffect s s.completeDestroy
  | microOp (t : State) (h : s.cmdL = some .transform) (hupc : s.upc < s.params.ulen) (ht : MicroOpEffect s t) :
      SequencerEffect s t
  | noMicroOp (h : s.cmdL = some .transform) : SequencerEffect s (s.raise .illegalMicroOp)

/-- The inversion of the sequencer's step. -/
theorem seqStep_effect (h : seqStep s = .next t) : SequencerEffect s t := by
  cases hc : s.cmdL with
  | none =>
    rw [seqStep_of_idle hc] at h
    cases h
    exact .idle hc
  | some c =>
    cases c with
    | construct =>
      rw [seqStep_of_construct hc, exec_construct_of_inProgress hc] at h
      cases h
      exact .constructed _ _ hc
    | destroy =>
      rw [seqStep_of_destroy hc, exec_destroy_completes hc] at h
      cases h
      exact .destroyed hc
    | transform =>
      rw [seqStep_of_transform hc] at h
      rcases microStep_cases s with hfault | ⟨w, i, hfetch, hdecode, hexec⟩
      · cases hfault.symm.trans h
        exact .noMicroOp hc
      · have hupc : s.upc < s.params.ulen := (List.getElem?_eq_some_iff.mp hfetch).1
        exact .microOp t hc hupc (exec_microOp_effect (isMicroOp_of_decodeMicroOp hdecode) (hexec.symm.trans h))

/-! ### One turn of any agent -/

/-- What a step that answers a next state has done, by whose turn it was (R75, R250). -/
inductive StepEffect (s : State) : State → Prop
  | sequencer (t : State) (hturn : SequencersTurn s) (h : SequencerEffect s.takeTurn t) : StepEffect s t
  | host (a : Access) (t : State) (hturn : s.agenda.head? = some (.host a))
      (h : hostAccess a s.takeTurn = .next t) : StepEffect s t
  | reset (hturn : s.agenda.head? = some .reset) : StepEffect s s.takeTurn.resetInput

/-- The inversion of the step. -/
theorem step_effect (h : step s = .next t) : StepEffect s t := by
  have htake {u : Turn} {rest : List Turn} (hagenda : s.agenda = u :: rest) :
      ({ s with agenda := rest } : State) = s.takeTurn := by rw [State.takeTurn, hagenda, List.tail_cons]
  cases hagenda : s.agenda with
  | nil =>
    have hturn : SequencersTurn s := .inl (by rw [hagenda]; rfl)
    rw [step_of_sequencersTurn hturn] at h
    exact .sequencer t hturn (seqStep_effect h)
  | cons u rest =>
    cases u with
    | sequencer =>
      have hturn : SequencersTurn s := .inr (by rw [hagenda]; rfl)
      rw [step_of_sequencersTurn hturn] at h
      exact .sequencer t hturn (seqStep_effect h)
    | host a =>
      rw [step_of_agenda_host hagenda, htake hagenda] at h
      exact .host a t (by rw [hagenda]; rfl) h
    | reset =>
      rw [step_of_agenda_reset hagenda, htake hagenda] at h
      cases h
      exact .reset (by rw [hagenda]; rfl)

/-! ### The obligations -/

/-- Settles O8: the turn is a micro-step, and the word at `UROM[upc]` decodes to `i`. -/
theorem sequencerStepExecutesTheMicroOp : Obligations.SequencerStepExecutesTheMicroOp := by
  intro s w i hturn hcmd hword hdecode
  have hfetch : fetch s.takeTurn = some w := hword
  rw [step_of_transform hturn hcmd, microStep, hfetch]
  simp only [hdecode]

/-- Settles O9: the turn is a `CMD` store, which an idle core hands to exec. -/
theorem cmdStoreExecutesTheCommand : Obligations.CmdStoreExecutesTheCommand := by
  intro s v i rest hagenda hbusy hdecode
  exact (step_of_cmdStore hagenda).trans (storeCommand_of_decode_ok hbusy hdecode)

/-- Settles O10: the command in progress selects the sequencer's step. -/
theorem sequencerCompletesOrIdles : Obligations.SequencerCompletesOrIdles := by
  intro s hturn
  rw [step_of_sequencersTurn hturn]
  exact ⟨fun h => seqStep_of_construct (s := s.takeTurn) h, fun h => seqStep_of_destroy (s := s.takeTurn) h,
    fun h => seqStep_of_idle (s := s.takeTurn) h⟩

/-- Settles O29: in `Ready` and idle the judgement of TRANSFORM is its acceptance, which touches no buffer. -/
theorem transformStartsTheMicroProgram : Obligations.TransformStartsTheMicroProgram := by
  intro s hbusy hlife
  refine ⟨{ s.accept .transform with upc := 0, logmodeL := s.logmode }, ?_, rfl, rfl, rfl, rfl, rfl, rfl, rfl,
    ⟨s.realBuf_accept .transform, s.cplxBuf_accept .transform⟩, rfl⟩
  rw [exec_transform_eq_judged, hbusy, if_neg Bool.false_ne_true, if_pos hlife]

/-- Settles O33: a busy core does not even decode the word. -/
theorem busyCmdStoreOnlySetsOvr : Obligations.BusyCmdStoreOnlySetsOvr := by
  intro s v rest hagenda hbusy
  rw [step_of_cmdStore hagenda, storeCommand]
  exact if_pos hbusy

/-- Settles O43: the two share their check and their lane function. -/
theorem winmulIsMulByHann : Obligations.WinmulIsMulByHann := fun s d a len =>
  (exec_winmul d a len s).trans (exec_mul d a .hann len s).symm

end Sys2Proof.Machine
end

section
/-!
The invariant of a run (10_state.md R45): each update of the state keeps it where the machine makes that update, hence
every step does; and it holds at reset.
-/

namespace Sys2Proof.Machine

variable {s t : State}

/-- `IN`, `HANN` and `PCOEF` are no legal destinations (R95), so a micro-op leaves them alone. -/
theorem KernelFrame.readOnly {dst : BufId} {len : Nat} (h : KernelFrame s t dst len)
    (hd : dst.isRealW = true ∨ dst.isComplex = true) : t.inp = s.inp ∧ t.hann = s.hann ∧ t.pcoef = s.pcoef := by
  have hne : dst ≠ .input ∧ dst ≠ .hann ∧ dst ≠ .pcoef := by
    refine ⟨?_, ?_, ?_⟩ <;> rintro rfl <;> simp [BufId.isRealW, BufId.isComplex] at hd
  exact ⟨h.otherReal .input hne.1.symm, h.otherReal .hann hne.2.1.symm, h.otherReal .pcoef hne.2.2.symm⟩

namespace State.Inv

/-! ### Updates of the flags and of what stands outside the core -/

theorem takeTurn (h : s.Inv) : s.takeTurn.Inv := { h with }

theorem answer (h : s.Inv) (r : Reply) : (s.answer r).Inv := { h with }

theorem port (h : s.Inv) (q : Option EngineRequest) : ({ s with port := q } : State).Inv := { h with }

theorem draws (h : s.Inv) (n : Nat) : ({ s with draws := n } : State).Inv := { h with }

theorem storeCtrl (h : s.Inv) (v : Word) : (s.storeCtrl v).Inv := { h with }

theorem overrun (h : s.Inv) : s.overrun.Inv := { h with }

theorem storeInput (h : s.Inv) (n : Nat) (v : Word) : ({ s with inp := setCell s.inp n v } : State).Inv :=
  { h with memory := wf_hostStore h.memory n v }

theorem reject (h : s.Inv) (e : ErrCode) : (s.reject e).Inv := { h with done := by simp }

/-- A command ends, with success or with an error: it is no longer in progress, and nothing else is asked. -/
theorem raise (h : s.Inv) (e : ErrCode) : (s.raise e).Inv :=
  { h with busy := by simp, done := by simp, transform := by simp, construct := by simp, destroy := by simp }

theorem succeed (h : s.Inv) : s.succeed.Inv :=
  { h with busy := by simp, done := by simp, transform := by simp, construct := by simp, destroy := by simp }

/-- A command is accepted only in its life state (R202). -/
theorem accept (h : s.Inv) {c : Command} (hlife : s.life = lifeFor c) : (s.accept c).Inv :=
  { h with
    busy := by simp
    done := by simp
    transform := fun hc => by cases hc; exact hlife
    construct := fun hc => by cases hc; exact hlife
    destroy := fun hc => by cases hc; exact hlife }

theorem started (h : s.Inv) (hlife : s.life = .ready) :
    ({ s.accept .transform with upc := 0, logmodeL := s.logmode } : State).Inv :=
  { h.accept (c := .transform) hlife with upc := Nat.zero_le _ }

/-- A `CMD` store of a decoded command, however it is judged (R201). -/
theorem issue (h : s.Inv) (c : Command) : (s.issue c).Inv := by
  rcases issue_cases s c with ⟨-, he⟩ | ⟨-, hlife, he⟩ | ⟨-, -, he⟩ <;> rw [he]
  · exact h.overrun
  · exact h.accept hlife
  · exact h.reject _

/-! ### The micro-ops -/

/-- A completing micro-op in `Ready`: the control part stays, `upc` stays in range, and the tables are not written. -/
theorem of_completes (h : s.Inv) (hready : s.life = .ready) (hupc : s.upc < s.params.ulen) (hc : ControlSame s t)
    (hu : t.upc = s.upc + 1) (htables : t.hann = s.hann ∧ t.pcoef = s.pcoef) (hm : Memory.wf t) : t.Inv where
  params := hc.params ▸ h.params
  memory := hm
  busy := by rw [hc.busy, hc.cmdL]; exact h.busy
  done := by rw [hc.done, hc.busy, hc.err]; exact h.done
  ctx := by rw [hc.life, hc.ctx]; exact h.ctx
  tables _ := by rw [TablesBuilt, htables.1, htables.2, hc.params]; exact h.tables hready
  noTables hlife := absurd (hc.life.trans hready) hlife
  noScratch hlife := absurd (hc.life.trans hready) hlife
  transform := by rw [hc.cmdL, hc.life]; exact h.transform
  construct := by rw [hc.cmdL, hc.life]; exact h.construct
  destroy := by rw [hc.cmdL, hc.life]; exact h.destroy
  upc := by rw [hu, hc.params]; exact hupc

theorem storeReal (h : s.Inv) (hready : s.life = .ready) (hupc : s.upc < s.params.ulen) {dst : BufId}
    (hd : dst.isRealW = true) (vs : List F32) : (s.storeReal dst vs).Inv := by
  have hframe := frame_storeReal (s := s) (isReal_of_isRealW hd) vs
  obtain ⟨-, htables⟩ := hframe.readOnly (.inl hd)
  exact h.of_completes hready hupc hframe.control hframe.upc htables (wf_storeReal h.memory dst vs)

theorem storeCplx (h : s.Inv) (hready : s.life = .ready) (hupc : s.upc < s.params.ulen) {dst : BufId}
    (hd : dst.isComplex = true) (vs : List C32) : (s.storeCplx dst vs).Inv := by
  have hframe := frame_storeCplx (s := s) hd vs
  obtain ⟨-, htables⟩ := hframe.readOnly (.inr hd)
  exact h.of_completes hready hupc hframe.control hframe.upc htables (wf_storeCplx h.memory dst vs)

/-- `TransformFailure` in `Ready`, where the scratch may hold anything (R155). -/
theorem transformFailure (h : s.Inv) (hready : s.life = .ready) : s.transformFailure.Inv :=
  { (h.raise .transformFailure).draws (s.draws + 1) with
    memory := wf_transformFailure h.memory
    noScratch := fun hlife => absurd hready hlife }

theorem microOp (h : s.Inv) (hready : s.life = .ready) (hupc : s.upc < s.params.ulen) (ht : MicroOpEffect s t) :
    t.Inv := by
  cases ht with
  | faulted e => exact h.raise e
  | storedReal dst vs hd => exact h.storeReal hready hupc hd vs
  | storedCplx dst vs hd => exact h.storeCplx hready hupc hd vs
  | answered c x ok y hctx =>
    cases ok with
    | true => exact (h.port (some (.forward c x))).storeCplx (dst := .fout) hready hupc rfl _
    | false => exact (h.port _).transformFailure hready
  | ended => exact h.succeed

/-! ### The completion steps -/

theorem constructed (h : s.Inv) (c : Ctx) : (s.constructed c).Inv where
  params := h.params
  memory := wf_constructed h.memory h.params c
  busy := by simp [State.constructed]
  done := by simp [State.constructed]
  ctx := iff_of_true rfl (Option.some_ne_none c)
  tables _ := ⟨rfl, rfl⟩
  noTables hlife := absurd rfl hlife
  noScratch hlife := absurd rfl hlife
  transform _ := rfl
  construct hc := nomatch hc
  destroy _ := rfl
  upc := h.upc

/-- Everything released, the core outside `Ready`, the command over. -/
theorem released (h : s.Inv) {l : Life} (hl : l ≠ .ready) :
    ({ s.releaseAll with life := l, busy := false, done := false, cmdL := none } : State).Inv where
  params := h.params
  memory := wf_releaseAll h.memory
  busy := by simp
  done := by simp
  ctx := by simp [hl]
  tables hlife := absurd hlife hl
  noTables _ := ⟨(vacant_releaseAll s).1, (vacant_releaseAll s).2.1⟩
  noScratch _ := (vacant_releaseAll s).2.2
  transform := by simp
  construct := by simp
  destroy := by simp
  upc := h.upc

theorem constructFailed (h : s.Inv) : s.constructFailed.Inv :=
  (h.released (l := .uninitialized) (by simp)).raise .resourceExhaustion

theorem completeConstruct (h : s.Inv) (ok : Bool) (answer : Option Ctx) : (s.completeConstruct ok answer).Inv := by
  rcases completeConstruct_cases s ok answer with ⟨-, c, -, he⟩ | ⟨-, -, he⟩ | ⟨-, he⟩ <;> rw [he]
  · exact ((h.draws _).port _).constructed c
  · exact ((h.draws _).port _).constructFailed
  · exact (h.draws _).constructFailed

theorem completeDestroy (h : s.Inv) : s.completeDestroy.Inv := by
  rw [State.completeDestroy]
  split
  · exact ((h.port _).released (l := .destroyed) (by simp)).succeed
  · exact (h.released (l := .destroyed) (by simp)).succeed

/-! ### Reset -/

theorem powerOn {p : Params} (hp : p.wf) : (State.powerOn p).Inv where
  params := hp
  memory := wf_powerOn p
  busy := by simp [State.powerOn]
  done := by simp [State.powerOn]
  ctx := by simp [State.powerOn]
  tables hlife := nomatch hlife
  noTables _ := ⟨vacant_replicate _, vacant_replicate _⟩
  noScratch _ := scratchVacant_resetInput (State.powerOn p)
  transform hc := nomatch hc
  construct _ := rfl
  destroy hc := nomatch hc
  upc := Nat.zero_le _

theorem resetInput (h : s.Inv) : s.resetInput.Inv := { powerOn h.params with }

/-! ### Every turn -/

theorem sequencer (h : s.Inv) (ht : SequencerEffect s t) : t.Inv := by
  cases ht with
  | idle => exact h
  | constructed ok answer => exact h.completeConstruct ok answer
  | destroyed => exact h.completeDestroy
  | microOp _ hc hupc ht => exact h.microOp (h.transform hc) hupc ht
  | noMicroOp => exact h.raise _

theorem command (h : s.Inv) (ht : CommandEffect s t) : t.Inv := by
  cases ht with
  | issued c => exact h.issue c
  | started _ hlife => exact h.started hlife
  | constructed ok answer => exact h.completeConstruct ok answer
  | destroyed => exact h.completeDestroy

theorem host (h : s.Inv) (ht : HostEffect s t) : t.Inv := by
  cases ht with
  | answered r => exact h.answer r
  | ctrl v => exact (h.answer _).storeCtrl v
  | inElem n v => exact (h.answer _).storeInput n v
  | dropped => exact (h.answer _).overrun
  | illegal => exact (h.answer _).reject _
  | command i _ _ hi hexec => exact (h.answer _).command (exec_command_effect hi hexec)

theorem step (h : s.Inv) (ht : StepEffect s t) : t.Inv := by
  cases ht with
  | sequencer _ _ ht => exact h.takeTurn.sequencer ht
  | host _ _ _ ht => exact h.takeTurn.host (hostAccess_effect ht)
  | reset => exact h.takeTurn.resetInput

end State.Inv

/-- Settles O53: each of the things that a step can do keeps the invariant. -/
theorem everyStepKeepsTheInvariant : Obligations.EveryStepKeepsTheInvariant :=
  fun _ _ h hstep => h.step (step_effect hstep)

/-- Settles O52: the reference parameters are legal, and any legal core is reset into the invariant. -/
theorem resetStateSatisfiesTheInvariant : Obligations.ResetStateSatisfiesTheInvariant :=
  State.Inv.powerOn ⟨rfl, by decide, by decide, rfl, by decide, rfl⟩

end Sys2Proof.Machine
end

section
/-!
Who may change what (10_state.md R9, R21, R22, R29, R33, R40): the parameters, the life state and the constant buffers;
`IN` and `CTRL`, which are the host's; and `OUT`, which is the TRANSFORM's.
-/

namespace Sys2Proof.Machine

variable {s t : State}

/-- What only CONSTRUCT, DESTROY and reset may change is as before. -/
structure ConstantsSame (s t : State) : Prop where
  life : t.life = s.life
  hann : t.hann = s.hann
  pcoef : t.pcoef = s.pcoef

/-- What only the host writes is as before. -/
structure HostOwnedSame (s t : State) : Prop where
  inp : t.inp = s.inp
  logmode : t.logmode = s.logmode

/-! ### The micro-ops -/

/-- A micro-op writes no more of the core than a legal destination, the flags and the sequencer's registers. -/
theorem MicroOpEffect.keeps (h : MicroOpEffect s t) :
    t.params = s.params ∧ ConstantsSame s t ∧ HostOwnedSame s t := by
  have completes {s t : State} {dst : BufId} {len : Nat} (h : KernelFrame s t dst len)
      (hd : dst.isRealW = true ∨ dst.isComplex = true) :
      t.params = s.params ∧ ConstantsSame s t ∧ HostOwnedSame s t := by
    obtain ⟨hinp, hhann, hpcoef⟩ := h.readOnly hd
    exact ⟨h.control.params, ⟨h.control.life, hhann, hpcoef⟩, ⟨hinp, h.control.logmode⟩⟩
  cases h with
  | faulted e => exact ⟨rfl, ⟨rfl, rfl, rfl⟩, ⟨rfl, rfl⟩⟩
  | storedReal dst vs hd => exact completes (frame_storeReal (isReal_of_isRealW hd) vs) (.inl hd)
  | storedCplx dst vs hd => exact completes (frame_storeCplx hd vs) (.inr hd)
  | answered c x ok y hctx =>
    cases ok with
    | true =>
      have hframe := frame_storeCplx (s := { s with port := some (.forward c x) }) (dst := .fout) rfl
        ((List.range s.params.n).map y)
      exact completes hframe.of_port (.inr rfl)
    | false => exact ⟨rfl, ⟨rfl, rfl, rfl⟩, ⟨rfl, rfl⟩⟩
  | ended => exact ⟨rfl, ⟨rfl, rfl, rfl⟩, ⟨rfl, rfl⟩⟩

/-! ### The commands -/

/-- The caller's buffers and mode bit are no part of what CONSTRUCT builds or gives back (R40). -/
theorem completeConstruct_keeps (s : State) (ok : Bool) (answer : Option Ctx) :
    (s.completeConstruct ok answer).params = s.params ∧ HostOwnedSame s (s.completeConstruct ok answer) ∧
      (s.completeConstruct ok answer).out = s.out := by
  rw [completeConstruct_eq_elim]
  cases (if ok then answer else none) <;> exact ⟨rfl, ⟨rfl, rfl⟩, rfl⟩

/-- Nor of what DESTROY releases (R40, R211). -/
theorem completeDestroy_keeps (s : State) :
    s.completeDestroy.params = s.params ∧ HostOwnedSame s s.completeDestroy ∧ s.completeDestroy.out = s.out := by
  rw [State.completeDestroy]
  split <;> exact ⟨rfl, ⟨rfl, rfl⟩, rfl⟩

/-- A `CMD` store, however it is judged, changes flags and latches alone. -/
theorem issue_keeps (s : State) (c : Command) :
    (s.issue c).params = s.params ∧ ConstantsSame s (s.issue c) ∧ (s.issue c).out = s.out := by
  rcases issue_cases s c with ⟨-, he⟩ | ⟨-, -, he⟩ | ⟨-, -, he⟩ <;> rw [he] <;> exact ⟨rfl, ⟨rfl, rfl, rfl⟩, rfl⟩

/-- CONSTRUCT or DESTROY is in progress: the only commands with a completion step. -/
abbrev Completing (s : State) : Prop := s.cmdL = some .construct ∨ s.cmdL = some .destroy

theorem CommandEffect.keeps (h : CommandEffect s t) :
    t.params = s.params ∧ (ConstantsSame s t ∨ Completing s) ∧ t.out = s.out := by
  cases h with
  | issued c =>
    obtain ⟨hparams, hconst, hout⟩ := issue_keeps s c
    exact ⟨hparams, .inl hconst, hout⟩
  | started => exact ⟨rfl, .inl ⟨rfl, rfl, rfl⟩, rfl⟩
  | constructed ok answer hc =>
    obtain ⟨hparams, -, hout⟩ := completeConstruct_keeps s ok answer
    exact ⟨hparams, .inr (.inl hc), hout⟩
  | destroyed hc =>
    obtain ⟨hparams, -, hout⟩ := completeDestroy_keeps s
    exact ⟨hparams, .inr (.inr hc), hout⟩

/-! ### The turns -/

theorem HostEffect.keeps (h : HostEffect s t) :
    t.params = s.params ∧ (ConstantsSame s t ∨ s.busy = false ∧ Completing s) ∧ t.out = s.out := by
  cases h with
  | command i u hbusy hi hexec =>
    obtain ⟨hparams, hconst, hout⟩ := (exec_command_effect hi hexec).keeps
    exact ⟨hparams, hconst.imp (fun hc => ⟨hc.life, hc.hann, hc.pcoef⟩) fun hc => ⟨hbusy, hc⟩, hout⟩
  | _ => exact ⟨rfl, .inl ⟨rfl, rfl, rfl⟩, rfl⟩

theorem SequencerEffect.keeps (h : SequencerEffect s t) :
    t.params = s.params ∧ (ConstantsSame s t ∨ Completing s) ∧ HostOwnedSame s t ∧
      (t.out = s.out ∨ s.cmdL = some .transform) := by
  cases h with
  | idle => exact ⟨rfl, .inl ⟨rfl, rfl, rfl⟩, ⟨rfl, rfl⟩, .inl rfl⟩
  | constructed ok answer hc =>
    obtain ⟨hparams, hhost, hout⟩ := completeConstruct_keeps s ok answer
    exact ⟨hparams, .inr (.inl hc), hhost, .inl hout⟩
  | destroyed hc =>
    obtain ⟨hparams, hhost, hout⟩ := completeDestroy_keeps s
    exact ⟨hparams, .inr (.inr hc), hhost, .inl hout⟩
  | microOp _ hc _ ht =>
    obtain ⟨hparams, hconst, hhost⟩ := ht.keeps
    exact ⟨hparams, .inl hconst, hhost, .inr hc⟩
  | noMicroOp hc => exact ⟨rfl, .inl ⟨rfl, rfl, rfl⟩, ⟨rfl, rfl⟩, .inr hc⟩

/-- A load is answered on the bus and does nothing else (R62). -/
theorem hostAccess_load_next {addr width : Nat} (h : hostAccess (.load addr width) s = .next t) :
    ∃ r, t = s.answer r := by
  have ofCell (b : BufId) (c : Cell F32) (h : s.loadCell b c = .next t) : ∃ r, t = s.answer r := by
    cases c with
    | none => cases h
    | some v => exact ⟨_, (Host.Outcome.next.inj h).symm⟩
  rw [hostAccess] at h
  split at h
  next => exact ⟨_, (Host.Outcome.next.inj h).symm⟩
  next loc _ =>
    cases loc with
    | inElem n => exact ofCell _ _ h
    | outElem k => exact ofCell _ _ h
    | _ => exact ⟨_, (Host.Outcome.next.inj h).symm⟩

/-- With a host access next, no command completes: an idle core has no command in progress (R45 item 1). -/
theorem constantsSame_of_host (hinv : s.Inv) (h : HostEffect s t) : ConstantsSame s t := by
  obtain ⟨-, hconst | ⟨hbusy, hc⟩, -⟩ := h.keeps
  · exact hconst
  · have hcmd : s.busy = true := hinv.busy.mpr (by rcases hc with hc | hc <;> simp [hc])
    simp [hbusy] at hcmd

/-! ### The obligations -/

/-- Settles O54: the two completion steps move `life`, and the invariant says from where. -/
theorem lifeMovesOnlyForward : Obligations.LifeMovesOnlyForward := by
  intro s t hinv hstep hreset
  cases step_effect hstep with
  | reset hturn => exact absurd hturn hreset
  | host a _ _ h => exact .inl (constantsSame_of_host hinv.takeTurn (hostAccess_effect h)).life
  | sequencer _ hturn h =>
    obtain ⟨-, hconst | hc, -⟩ := h.keeps
    · exact .inl hconst.life
    cases h with
    | idle => exact .inl rfl
    | microOp _ hcmd => rcases hc with hc | hc <;> cases hcmd.symm.trans hc
    | noMicroOp hcmd => exact .inl rfl
    | constructed ok answer hcmd =>
      have huninit : s.life = .uninitialized := hinv.construct hcmd
      rw [completeConstruct_eq_elim]
      cases (if ok then answer else none) with
      | none => exact .inl huninit.symm
      | some c => exact .inr (.inl ⟨huninit, rfl, hcmd, hturn⟩)
    | destroyed hcmd =>
      refine .inr (.inr ⟨hinv.destroy hcmd, ?_, hcmd, hturn⟩)
      rw [State.completeDestroy]
      rfl

/-- Settles O55: whosever turn it is, the parameters stay, and only a completion step reaches the constant buffers. -/
theorem constantsChangeOnlyByTheirCommands : Obligations.ConstantsChangeOnlyByTheirCommands := by
  have changed {s t : State} (h : ConstantsSame s t ∨ Completing s) (hne : t.hann ≠ s.hann ∨ t.pcoef ≠ s.pcoef) :
      Completing s := h.resolve_left fun hsame => hne.elim (absurd hsame.hann) (absurd hsame.pcoef)
  intro s t hstep
  cases step_effect hstep with
  | reset hturn => exact ⟨rfl, fun hreset => absurd hturn hreset⟩
  | host a _ _ h =>
    obtain ⟨hparams, hconst, -⟩ := (hostAccess_effect h).keeps
    exact ⟨hparams, fun _ => changed (s := s.takeTurn) (hconst.imp_right And.right)⟩
  | sequencer _ _ h =>
    obtain ⟨hparams, hconst, -⟩ := h.keeps
    exact ⟨hparams, fun _ => changed (s := s.takeTurn) hconst⟩

/-- Settles O56: a sequencer step leaves what is the host's and writes `OUT` in a TRANSFORM alone; a host access leaves
`OUT`, and a load leaves the rest too. -/
theorem callerStateChangesOnlyWhereItMay : Obligations.CallerStateChangesOnlyWhereItMay := by
  have unchanged {s t : State} (h : HostOwnedSame s t) : ¬ (t.inp ≠ s.inp ∨ t.logmode ≠ s.logmode) :=
    fun hne => hne.elim (absurd h.inp) (absurd h.logmode)
  intro s t _ hstep hreset
  cases step_effect hstep with
  | reset hturn => exact absurd hturn hreset
  | sequencer _ hturn h =>
    obtain ⟨-, -, hhost, hout⟩ := h.keeps
    exact ⟨fun hne => absurd hne (unchanged ⟨hhost.inp, hhost.logmode⟩), fun hne => ⟨hturn, hout.resolve_left hne⟩⟩
  | host a _ hturn h =>
    obtain ⟨-, -, hout⟩ := (hostAccess_effect h).keeps
    refine ⟨fun hne => ?_, fun hne => absurd hout hne⟩
    cases a with
    | store addr width v => exact ⟨addr, width, v, hturn⟩
    | load addr width =>
      obtain ⟨r, rfl⟩ := hostAccess_load_next h
      exact absurd hne (unchanged ⟨rfl, rfl⟩)

end Sys2Proof.Machine
end

section
/-!
The check of R108 (30_encoding.md section 4): it passes exactly the forms of the operand table (R95), and it reports the
first failing step. A form that passes and reads an element that holds no value stops there (10_state.md R24).
-/

namespace Sys2Proof.Machine

variable {p : Params} {s : State} {op i : Instr} {e : ErrCode} {dst sa sb d a b : BufId} {len : Nat}

/-! ### What the check passes (R95) -/

theorem legalityFault_eq_none_iff : legalityFault p op = none ↔
    (∀ u ∈ operandFields op, missingBuf u.1 = false ∧ u.2.admits u.1 = true) ∧ badLen p op = false := by
  refine ⟨fun h => ?_, fun ⟨hfields, hlen⟩ => legalityFault_eq_none hfields hlen⟩
  have hclass := admits_of_legal h
  rw [legalityFault] at h
  split_ifs at h with hid _ hlen
  exact ⟨fun u hu => ⟨by simpa using List.any_eq_false.mp (Bool.eq_false_iff.mpr hid) u hu, hclass u hu⟩,
    Bool.eq_false_iff.mpr hlen⟩

/-- The converse of `laneCount_passes` beside it: step 5 asks for nothing more (R106). -/
theorem laneCount_passes_iff {bufs : List BufId} :
    (decide (len = 0) || bufs.any fun b => decide (p.bufLen b < len)) = false ↔
      1 ≤ len ∧ ∀ b ∈ bufs, len ≤ p.bufLen b := by
  refine ⟨fun h => ?_, fun ⟨hpos, hfit⟩ => laneCount_passes hpos hfit⟩
  obtain ⟨hzero, hfit⟩ := Bool.or_eq_false_iff.mp h
  exact ⟨Nat.one_le_iff_ne_zero.mpr (of_decide_eq_false hzero), by simpa using hfit⟩

/-- Every class of R95 holds buffers only, so naming one of the class is naming a buffer. -/
theorem admits_and_not_missing :
    (missingBuf b = false ∧ b.isReal = true ↔ b.isReal = true) ∧
      (missingBuf b = false ∧ b.isRealW = true ↔ b.isRealW = true) ∧
      (missingBuf b = false ∧ b.isComplex = true ↔ b.isComplex = true) :=
  ⟨and_iff_right_of_imp missingBuf_of_isReal,
    and_iff_right_of_imp fun h => missingBuf_of_isReal (isReal_of_isRealW h),
    and_iff_right_of_imp missingBuf_of_isComplex⟩

/-- The row with one real source. -/
theorem legal_unary_iff (hfields : operandFields op = [(dst, .realW), (sa, .real)])
    (hbad : badLen p op = (decide (len = 0) || [dst, sa].any fun b => decide (p.bufLen b < len))) :
    legalityFault p op = none ↔ Instr.wfUnary p dst sa len = true := by
  rw [legalityFault_eq_none_iff, hfields, hbad, laneCount_passes_iff, wfUnary_iff]
  simp [admits_and_not_missing]

/-- The row with two real sources. -/
theorem legal_binary_iff (hfields : operandFields op = [(dst, .realW), (sa, .real), (sb, .real)])
    (hbad : badLen p op = (decide (len = 0) || [dst, sa, sb].any fun b => decide (p.bufLen b < len))) :
    legalityFault p op = none ↔ Instr.wfBinary p dst sa sb len = true := by
  rw [legalityFault_eq_none_iff, hfields, hbad, laneCount_passes_iff, wfBinary_iff, wfUnary_iff]
  simp [admits_and_not_missing]
  tauto

/-- PACK's row. -/
theorem legal_pack_iff : legalityFault p (.pack dst sa len) = none ↔ (Instr.pack dst sa len).wellFormed p = true := by
  rw [legalityFault_eq_none_iff, badLen, laneCount_passes_iff, wellFormed_pack_iff]
  simp [operandFields, impliedBufs, admits_and_not_missing]

/-- The row of REAL and IMAG. -/
theorem legal_fromComplex_iff (hfields : operandFields op = [(dst, .realW), (sa, .complex)])
    (hbad : badLen p op = (decide (len = 0) || [dst, sa].any fun b => decide (p.bufLen b < len))) :
    legalityFault p op = none ↔ (Instr.real dst sa len).wellFormed p = true := by
  rw [legalityFault_eq_none_iff, hfields, hbad, laneCount_passes_iff, wellFormed_real_iff]
  simp [admits_and_not_missing]

/-- FFT's row has one form alone (R107). -/
theorem legal_fft_iff : legalityFault p (.fft dst sa len) = none ↔ (Instr.fft dst sa len).wellFormed p = true := by
  constructor
  · intro h
    have hclass := admits_of_legal h
    obtain ⟨-, hlen⟩ := legalityFault_eq_none_iff.mp h
    simp only [operandFields, List.forall_mem_cons, admits_exactly, decide_eq_true_eq] at hclass
    exact decide_eq_true ⟨hclass.1, hclass.2.1, by simpa [badLen] using hlen⟩
  · intro h
    obtain ⟨rfl, rfl, rfl⟩ := of_decide_eq_true h
    exact legalityFault_fft p

/-- An implied coefficient buffer counts as a second source. -/
theorem wellFormed_winmul_iff :
    (Instr.winmul dst sa len).wellFormed p = true ↔ Instr.wfBinary p dst sa .hann len = true := by
  rw [wfBinary_iff, Instr.wellFormed, Bool.and_eq_true, decide_eq_true_iff]
  simp [BufId.isReal, Params.bufLen]

/-- Settles O6: row by row of the operand table. -/
theorem legalityCheckAcceptsTheLegalForms : Obligations.LegalityCheckAcceptsTheLegalForms := by
  intro p i
  cases i with
  | done | construct | transform | destroy => exact iff_of_true rfl rfl
  | copy | sqrt | sqr | logc => exact legal_unary_iff rfl rfl
  | add | mul | cmag => exact legal_binary_iff rfl rfl
  | winmul => rw [legalityFault_winmul, wellFormed_winmul_iff]; exact legal_binary_iff rfl rfl
  | pnorm => rw [legalityFault_pnorm]; exact (legal_binary_iff (sb := .pcoef) rfl rfl).trans wellFormed_winmul_iff.symm
  | pack => exact legal_pack_iff
  | real | imag => exact legal_fromComplex_iff rfl rfl
  | fft => exact legal_fft_iff

theorem legalityFault_of_wellFormed (h : i.wellFormed p = true) : legalityFault p i = none :=
  (legalityCheckAcceptsTheLegalForms p i).mpr h

/-! ### In which order it fails (R108) -/

theorem legalityFault_of_missing (h : ∃ u ∈ operandFields i, missingBuf u.1 = true) :
    legalityFault p i = some .illegalMicroOp := by
  rw [legalityFault, if_pos (List.any_eq_true.mpr h)]

theorem legalityFault_of_wrong_class (hid : ∀ u ∈ operandFields i, missingBuf u.1 = false)
    (h : ∃ u ∈ operandFields i, u.2.admits u.1 = false) : legalityFault p i = some .operandFault := by
  have hany : ((operandFields i).any fun u => missingBuf u.1) = false := by simpa using hid
  have hclass : ((operandFields i).any fun u => !u.2.admits u.1) = true := by simpa using h
  rw [legalityFault, hany, hclass]
  rfl

theorem legalityFault_of_badLen (hfields : ∀ u ∈ operandFields i, missingBuf u.1 = false ∧ u.2.admits u.1 = true)
    (h : badLen p i = true) : legalityFault p i = some .operandFault := by
  have hid : ((operandFields i).any fun u => missingBuf u.1) = false := by
    simpa using fun u c hu => (hfields (u, c) hu).1
  have hclass : ((operandFields i).any fun u => !u.2.admits u.1) = false := by
    simpa using fun u c hu => (hfields (u, c) hu).2
  rw [legalityFault, hid, hclass, h]
  rfl

/-- The classes that R95 asks of a field by kind. -/
def OperandClass.isKind : OperandClass → Bool
  | .real | .realW | .complex => true
  | .exactly _ => false

theorem not_missing_of_admits {c : OperandClass} (hc : c.isKind = true) (h : c.admits b = true) :
    missingBuf b = false := by
  cases c with
  | real => exact missingBuf_of_isReal (by simpa using h)
  | realW => exact missingBuf_of_isReal (isReal_of_isRealW (by simpa using h))
  | complex => exact missingBuf_of_isComplex (by simpa using h)
  | exactly => cases hc

/-- The order of the check on a micro-op that names two buffers. -/
theorem faults_in_order_two {cd ca : OperandClass} (hcd : cd.isKind = true) (hca : ca.isKind = true)
    (hfields : operandFields i = [(d, cd), (a, ca)])
    (hbad : (len = 0 ∨ p.bufLen d < len ∨ p.bufLen a < len) → badLen p i = true) :
    ((missingBuf d = true ∨ missingBuf a = true) → legalityFault p i = some .illegalMicroOp) ∧
    (¬ missingBuf d = true → ¬ missingBuf a = true → (cd.admits d = false ∨ ca.admits a = false) →
      legalityFault p i = some .operandFault) ∧
    (cd.admits d = true → ca.admits a = true → (len = 0 ∨ p.bufLen d < len ∨ p.bufLen a < len) →
      legalityFault p i = some .operandFault) := by
  refine ⟨fun h => legalityFault_of_missing (by simpa [hfields] using h),
    fun hd ha h => legalityFault_of_wrong_class (by simp [hfields, hd, ha]) (by simpa [hfields] using h),
    fun hd ha h => legalityFault_of_badLen ?_ (hbad h)⟩
  simp [hfields, hd, ha, not_missing_of_admits hcd hd, not_missing_of_admits hca ha]

/-- The order of the check on a micro-op that names three buffers. -/
theorem faults_in_order_three (hfields : operandFields i = [(d, .realW), (a, .real), (b, .real)])
    (hbad : (len = 0 ∨ p.bufLen d < len ∨ p.bufLen a < len ∨ p.bufLen b < len) → badLen p i = true) :
    ((missingBuf d = true ∨ missingBuf a = true ∨ missingBuf b = true) →
      legalityFault p i = some .illegalMicroOp) ∧
    (¬ missingBuf d = true → ¬ missingBuf a = true → ¬ missingBuf b = true →
      (d.isRealW = false ∨ a.isReal = false ∨ b.isReal = false) → legalityFault p i = some .operandFault) ∧
    (d.isRealW = true → a.isReal = true → b.isReal = true →
      (len = 0 ∨ p.bufLen d < len ∨ p.bufLen a < len ∨ p.bufLen b < len) →
      legalityFault p i = some .operandFault) := by
  refine ⟨fun h => legalityFault_of_missing (by simpa [hfields] using h),
    fun hd ha hb h => legalityFault_of_wrong_class (by simp [hfields, hd, ha, hb]) (by simpa [hfields] using h),
    fun hd ha hb h => legalityFault_of_badLen ?_ (hbad h)⟩
  simp [hfields, hd, ha, hb, missingBuf_of_isReal, isReal_of_isRealW]

/-- Settles O7: shape by shape of the operands; FFT's classes are two buffers by name. -/
theorem legalityCheckFaultsInOrder : Obligations.LegalityCheckFaultsInOrder := by
  intro p d a b len
  simp only [← missingBuf_iff, List.forall_mem_cons, List.not_mem_nil, false_imp_iff, implies_true, and_true]
  refine ⟨⟨?_, ?_, ?_, ?_, ?_, ?_⟩, ⟨?_, ?_, ?_⟩, ?_, ⟨?_, ?_⟩, fun h => ?_, fun hd ha h => ?_, fun hd ha h => ?_⟩
  case refine_1 | refine_2 | refine_3 | refine_4 =>
    simp only [← admits_realW, ← admits_real]
    exact faults_in_order_two rfl rfl rfl (by simp [badLen, operandFields, impliedBufs])
  -- WINMUL and PNORM, whose implied buffer counts for the length beside the two they name
  case refine_5 | refine_6 =>
    simp only [← admits_realW, ← admits_real]
    exact faults_in_order_two rfl rfl rfl (by simp [badLen, operandFields, impliedBufs]; tauto)
  case refine_7 | refine_8 | refine_9 =>
    exact faults_in_order_three rfl (by simp [badLen, operandFields, impliedBufs])
  case refine_10 =>
    simp only [← admits_complex, ← admits_real]
    exact faults_in_order_two rfl rfl rfl (by simp [badLen, operandFields, impliedBufs])
  case refine_11 | refine_12 =>
    simp only [← admits_realW, ← admits_complex]
    exact faults_in_order_two rfl rfl rfl (by simp [badLen, operandFields, impliedBufs])
  case refine_13 => exact legalityFault_of_missing (by simpa [operandFields] using h)
  case refine_14 =>
    exact legalityFault_of_wrong_class (by simp [operandFields, hd, ha])
      (by simpa [operandFields, ← not_and_or] using h)
  case refine_15 =>
    subst hd ha
    exact legalityFault_of_badLen (by simp [operandFields, missingBuf_eq, BufId.isComplex]) (by simp [badLen, h])

/-- Settles O12: a micro-op whose check fails only enters the fault. -/
theorem checkFaultWritesNothing : Obligations.CheckFaultWritesNothing :=
  fun _ _ _ _ h => exec_of_legalityFault h

/-! ### Reading an element that holds no value (R24) -/

/-- A legal micro-op stops at its first source when a lane of it holds no value. -/
theorem exec_of_unwritten_first {α : Type} {src : Buffer α} {body : List α → Result}
    (hwf : i.wellFormed s.params = true)
    (hexec : exec i s = s.checked i (State.withLanes src b len body)) (h : ¬ Written src len) :
    exec i s = .fault (.unwrittenRead b) := by
  rw [hexec, checked_legal (legalityFault_of_wellFormed hwf), State.withLanes, readLanes_eq_none h]

/-- And at its second source when the first is written. -/
theorem exec_of_unwritten_second {src₁ src₂ : Buffer F32} {body : List F32 → List F32 → Result}
    (hwf : i.wellFormed s.params = true)
    (hexec : exec i s = s.checked i (State.withLanes src₁ a len fun xs => State.withLanes src₂ b len (body xs)))
    (h₁ : Written src₁ len) (h₂ : ¬ Written src₂ len) : exec i s = .fault (.unwrittenRead b) := by
  obtain ⟨xs, hxs⟩ := exists_readLanes h₁
  rw [hexec, checked_legal (legalityFault_of_wellFormed hwf), State.withLanes, hxs]
  simp only [State.withLanes, readLanes_eq_none h₂]

/-- Settles O13: every reading micro-op is its check and then the reading of its sources in operand order. -/
theorem unwrittenSourceLaneFaults : Obligations.UnwrittenSourceLaneFaults := by
  intro s d a b len
  simp only [List.forall_mem_cons, List.not_mem_nil, false_imp_iff, implies_true, and_true]
  refine ⟨⟨?_, ?_, ?_, ?_, ?_, ?_, ?_, ?_, ?_, ?_⟩, ⟨?_, ?_, ?_⟩, ?_, ?_, ⟨?_, ?_⟩, ?_⟩
  case refine_1 | refine_2 | refine_3 | refine_4 | refine_5 | refine_6 | refine_7 | refine_8 | refine_9 | refine_10 =>
    exact fun hwf h => exec_of_unwritten_first hwf rfl h
  case refine_11 | refine_12 | refine_13 => exact fun hwf ha h => exec_of_unwritten_second hwf rfl ha h
  case refine_14 => exact fun hwf ha h => exec_of_unwritten_second (src₂ := s.realBuf .hann) hwf rfl ha h
  case refine_15 => exact fun hwf ha h => exec_of_unwritten_second (src₂ := s.realBuf .pcoef) hwf rfl ha h
  case refine_16 | refine_17 => exact fun hwf h => exec_of_unwritten_first hwf rfl h
  case refine_18 => exact fun h => exec_of_unwritten_first (decide_eq_true ⟨rfl, rfl, rfl⟩) rfl h

end Sys2Proof.Machine
end

section
/-!
The host's view of the core: `STATUS` field by field (10_state.md R32), and what a store writes at each location
(20_memory.md R63).
-/

namespace Sys2Proof.Machine

variable {s : State}

/-! ### The fields of `STATUS` (R32) -/

/-- The one-bit fields. -/
theorem statusWord_flags (s : State) :
    s.statusWord.getLsbD 2 = s.busy ∧ s.statusWord.getLsbD 3 = s.done ∧ s.statusWord.getLsbD 13 = s.ovr := by
  simp only [State.statusWord, BitVec.getLsbD_append]
  simp

/-- The wider fields, and the reserved bits. -/
theorem statusWord_fields (s : State) :
    s.statusWord.extractLsb' 0 2 = s.life.code ∧ s.statusWord.extractLsb' 4 4 = s.err.code ∧
      s.statusWord.extractLsb' 8 5 = BitVec.ofNat 5 s.upc ∧ s.statusWord.extractLsb' 14 18 = 0 := by
  refine ⟨?_, ?_, ?_, ?_⟩
  all_goals
    apply BitVec.eq_of_getLsbD_eq
    intro i hi
    simp only [State.statusWord, BitVec.getLsbD_extractLsb', BitVec.getLsbD_append]
    interval_cases i <;> simp

/-- Settles O50: each field of the word is its piece of state, and the two codes are numbers of R21 and R221. -/
theorem statusShowsItsFields : Obligations.StatusShowsItsFields := by
  intro s hupc
  obtain ⟨hbusy, hdone, hovr⟩ := statusWord_flags s
  obtain ⟨hlife, herr, hindex, hrest⟩ := statusWord_fields s
  refine ⟨?_, hbusy, hdone, ?_, ?_, hovr, hrest⟩
  · rw [hlife]
    cases s.life <;> rfl
  · rw [herr]
    cases s.err <;> rfl
  · rw [hindex, BitVec.toNat_ofNat, Nat.mod_eq_of_lt hupc]

/-! ### The host store (R63) -/

/-- A 32-bit store to an aligned offset of the block is answered and is the store to the offset's location. -/
theorem hostAccess_store_of_locAtOffset {off : Nat} {loc : Loc} (v : Word) (hoff : off < 0x4000)
    (halign : off % 4 = 0) (hloc : locAtOffset s.params off = some loc) :
    hostAccess (.store (s.params.base + off) 4 v) s = storeLoc loc v (s.answer .stored) := by
  simp [hostAccess, locate_base_add s.params hoff, halign, hloc]

/-- Settles O48: each register sits at a literal offset, and an element's store sets its cell. -/
theorem hostStoreWritesTheMap : Obligations.HostStoreWritesTheMap := by
  intro s v ⟨_, _, hn, _⟩ ⟨hinp, _⟩ store taken
  have register (off : Nat) (loc : Loc) (hoff : off < 0x4000 ∧ off % 4 = 0)
      (hloc : locAtOffset s.params off = some loc) : store off = storeLoc loc v taken :=
    hostAccess_store_of_locAtOffset v hoff.1 hoff.2 hloc
  have hnb : s.params.nb ≤ 1024 := by rw [Params.nb]; omega
  refine ⟨register 0x000C .ctrl (by decide) rfl, register 0x0000 .id (by decide) rfl,
    register 0x0008 .status (by decide) rfl, register 0x0010 .nframe (by decide) rfl,
    register 0x0014 .nbins (by decide) rfl, fun k (hk : k < s.params.nb) => ?_, fun n hlt => ?_⟩
  · exact register _ (.outElem k) (by omega) (locAtOffset_output hn hk)
  · exact ⟨_, register _ (.inElem n) (by omega) (locAtOffset_input s.params hlt), rfl,
      (length_setCell s.inp n v).trans hinp, cellAt_setCell_self s.inp n v (hinp.symm ▸ hlt),
      fun m hm => cellAt_setCell_ne s.inp n m v hm⟩

end Sys2Proof.Machine
end

section
/-!
Binary32 addition, multiplication and square root (40_vector_kernels.md R124 to R126, R132, R133): finite operands give
the exact result rounded once, and infinities, NaNs and signs follow the rules of their classes.
-/

namespace Sys2Proof.F32

variable {nan a b : F32} {m n k : Nat} {s : Bool}

/-! ### Classes of patterns -/

theorem mag_lt (a : F32) : a.mag < 2 ^ 31 := BitVec.isLt _

theorem ofMag_sign_mag (a : F32) : ofMag a.sign a.mag = a := by
  have hhigh : a.extractLsb' 31 1 = BitVec.ofBool a.sign := by
    apply BitVec.eq_of_getLsbD_eq
    intro i hi
    obtain rfl : i = 0 := by omega
    simp [sign]
  rw [ofMag, mag, BitVec.ofNat_toNat, BitVec.setWidth_eq, ← hhigh]
  exact BitVec.extractLsb'_append_extractLsb'

theorem eq_of_sign_mag (hs : a.sign = b.sign) (hm : a.mag = b.mag) : a = b := by
  rw [← ofMag_sign_mag a, hs, hm, ofMag_sign_mag]

theorem not_isNaN_of_isFinite (h : a.isFinite = true) : a.isNaN = false :=
  (isNaN_eq_false_iff a).mpr ((isFinite_iff a).mp h).le

theorem not_isInf_of_isFinite (h : a.isFinite = true) : a.isInf = false := by
  have hmag := (isFinite_iff a).mp h
  rw [← Bool.not_eq_true, isInf_iff]
  omega

theorem not_isNaN_ofMag (hm : m ≤ infMag) : (ofMag s m).isNaN = false := by
  rw [isNaN_eq_false_iff, mag_ofMag s (hm.trans_lt (by decide))]
  exact hm

theorem isInf_ofMag_infMag : (ofMag s infMag).isInf = true := by
  rw [isInf_iff, mag_ofMag s (by decide)]

theorem roundMag_le_infMag (n k : Nat) : roundMag n k ≤ infMag := min_le_right _ _

theorem roundMag_lt (n k : Nat) : roundMag n k < 2 ^ 31 := (roundMag_le_infMag n k).trans_lt (by decide)

theorem units_eq_zero_iff : a.units = 0 ↔ a.mag = 0 := by
  rw [units_eq_gridUnits]
  exact gridUnits_strictMono.injective.eq_iff' gridUnits_zero

theorem natAbs_signedUnits (a : F32) : a.signedUnits.natAbs = a.units := by
  rw [signedUnits]
  split <;> simp

theorem value_cast (a : F32) : (a.value : ℝ) = (a.signedUnits : ℝ) / 2 ^ 149 := by
  rw [value_eq_signedUnits]
  push_cast
  rfl

theorem abs_value (a : F32) : |(a.value : ℝ)| = a.units / 2 ^ 149 := by
  rw [value_cast, abs_div, abs_of_pos (by positivity : (0 : ℝ) < 2 ^ 149), ← Int.cast_abs, Int.abs_eq_natAbs,
    natAbs_signedUnits, Int.cast_natCast]

theorem mag_eq_zero_of_value (h : a.value = 0) : a.mag = 0 := by
  have habs := abs_value a
  rw [h, Rat.cast_zero, abs_zero, eq_comm, div_eq_zero_iff, or_iff_left (by positivity), Nat.cast_eq_zero] at habs
  exact units_eq_zero_iff.mp habs

/-! ### Rounding a number of either sign -/

/-- The pattern with the other sign. -/
def neg (a : F32) : F32 := ofMag (!a.sign) a.mag

@[simp] theorem sign_neg (a : F32) : a.neg.sign = !a.sign := sign_ofMag _ _

@[simp] theorem mag_neg (a : F32) : a.neg.mag = a.mag := mag_ofMag _ a.mag_lt

theorem isFinite_neg (a : F32) : a.neg.isFinite = a.isFinite := by
  rw [Bool.eq_iff_iff, isFinite_iff, isFinite_iff, mag_neg]

theorem isInf_neg (a : F32) : a.neg.isInf = a.isInf := by
  rw [Bool.eq_iff_iff, isInf_iff, isInf_iff, mag_neg]

theorem value_neg (a : F32) : a.neg.value = -a.value := by
  rw [value_eq_signedUnits, value_eq_signedUnits, signedUnits, signedUnits, units_eq_gridUnits, units_eq_gridUnits,
    sign_neg, mag_neg]
  cases a.sign <;> simp <;> ring

/-- The lowest bit of the fraction is the lowest of the magnitude. -/
theorem frac_mod_two (a : F32) : a.frac % 2 = a.mag % 2 := by
  rw [mag_eq_expo_frac]
  omega

/-- Rounding to nearest is symmetric in the sign. -/
theorem RoundsTo.neg {x : ℝ} {r : F32} (h : RoundsTo x r) : RoundsTo (-x) r.neg := by
  have hdist (y : F32) : |(y.neg.value : ℝ) - -x| = |(y.value : ℝ) - x| := by
    rw [value_neg, Rat.cast_neg, ← abs_neg]
    congr 1
    ring
  have hdist' (y : F32) : |(y.value : ℝ) - -x| = |(y.neg.value : ℝ) - x| := by
    rw [value_neg, Rat.cast_neg, ← abs_neg]
    congr 1
    ring
  rw [RoundsTo] at h ⊢
  rw [abs_neg]
  split at h
  next hlt =>
    rw [if_pos hlt, isFinite_neg]
    refine ⟨h.1, fun y hy => ?_⟩
    obtain ⟨hle, htie⟩ := h.2 y.neg ((isFinite_neg y).trans hy)
    rw [hdist, hdist', frac_mod_two, mag_neg, ← frac_mod_two]
    refine ⟨hle, fun hne heq => htie (fun h => hne ?_) heq⟩
    rw [value_neg, ← h, value_neg, neg_neg]
  next hge =>
    rw [if_neg hge, isInf_neg, sign_neg]
    refine ⟨h.1, ?_⟩
    have hx : x ≠ 0 := by
      rintro rfl
      norm_num at hge
    rw [Left.neg_neg_iff, Bool.not_eq_true', ← Bool.not_eq_true, h.2, not_lt]
    exact ⟨fun hnonneg => lt_of_le_of_ne hnonneg hx.symm, le_of_lt⟩

/-- An integer stands for itself. -/
theorem standsFor_self (n d : Nat) : StandsFor n d n := fun t =>
  ⟨by exact_mod_cast Iff.rfl, by exact_mod_cast Iff.rfl⟩

/-- The rounded magnitude, with a sign that is right unless the number is 0, rounds the number. -/
theorem roundsTo_ofMag_roundMag {x : ℝ} (hneg : s = true → x ≤ 0) (hpos : s = false → 0 ≤ x)
    (hn : |x| * 2 ^ 149 * 2 ^ k = n) : RoundsTo x (ofMag s (roundMag n k)) := by
  have habs : RoundsTo |x| (ofMag false (roundMag n k)) :=
    roundsTo_roundMag (abs_nonneg x) (hn ▸ standsFor_self n _)
  cases s with
  | false => rwa [abs_of_nonneg (hpos rfl)] at habs
  | true =>
    have h := habs.neg
    rwa [abs_of_nonpos (hneg rfl), neg_neg, F32.neg, sign_ofMag, mag_ofMag _ (roundMag_lt n k)] at h

/-! ### Addition (R124) -/

/-- Finite operands: the exact sum of the units, rounded; an exact zero has the common sign of the operands. -/
theorem fadd_of_isFinite (ha : a.isFinite = true) (hb : b.isFinite = true) :
    fadd nan a b =
      if a.signedUnits + b.signedUnits = 0 then ofMag (a.sign && b.sign) 0
      else ofMag (decide (a.signedUnits + b.signedUnits < 0)) (roundMag (a.signedUnits + b.signedUnits).natAbs 0) := by
  simp [fadd, not_isNaN_of_isFinite ha, not_isNaN_of_isFinite hb, not_isInf_of_isFinite ha, not_isInf_of_isFinite hb]

/-- Settles O34: the exact sum is an integer of units, so nothing is lost before the one rounding. -/
theorem faddRoundsTheExactSum : Obligations.FaddRoundsTheExactSum := by
  intro nan a b ha hb
  have hsum : (a.value : ℝ) + b.value = ((a.signedUnits + b.signedUnits : ℤ) : ℝ) / 2 ^ 149 := by
    rw [value_cast, value_cast]
    push_cast
    ring
  rw [fadd_of_isFinite ha hb, hsum]
  generalize a.signedUnits + b.signedUnits = x
  have hexact : |(x : ℝ) / 2 ^ 149| * 2 ^ 149 * 2 ^ 0 = (x.natAbs : ℝ) := by
    rw [abs_div, abs_of_pos (by positivity : (0 : ℝ) < 2 ^ 149), pow_zero, mul_one, div_mul_cancel₀ _ (by positivity),
      ← Int.cast_abs, Int.abs_eq_natAbs, Int.cast_natCast]
  split
  next hzero =>
    subst hzero
    exact roundsTo_ofMag_roundMag (n := 0) (k := 0) (by simp) (by simp) (by simp)
  next =>
    refine roundsTo_ofMag_roundMag (fun h => ?_) (fun h => ?_) hexact
    · have hx : (x : ℝ) < 0 := by exact_mod_cast of_decide_eq_true h
      exact (div_neg_of_neg_of_pos hx (by positivity)).le
    · have hx : (0 : ℝ) ≤ x := by exact_mod_cast not_lt.mp (of_decide_eq_false h)
      positivity

/-! ### Multiplication (R125) -/

/-- Finite operands: the exact product of the units, which counts 2⁻²⁹⁸, rounded. -/
theorem fmul_of_isFinite (ha : a.isFinite = true) (hb : b.isFinite = true) :
    fmul nan a b = ofMag (a.sign != b.sign) (roundMag (a.units * b.units) 149) := by
  simp [fmul, not_isNaN_of_isFinite ha, not_isNaN_of_isFinite hb, not_isInf_of_isFinite ha, not_isInf_of_isFinite hb]

/-- The sign of an exact product is the exclusive-or of the signs, unless the product is 0. -/
theorem signedUnits_mul (a b : F32) :
    a.signedUnits * b.signedUnits =
      if a.sign != b.sign then -((a.units * b.units : ℕ) : ℤ) else (a.units * b.units : ℕ) := by
  rw [signedUnits, signedUnits]
  cases a.sign <;> cases b.sign <;> simp

/-- Settles O35: the exact product is an integer in units of 2⁻²⁹⁸. -/
theorem fmulRoundsTheExactProduct : Obligations.FmulRoundsTheExactProduct := by
  intro nan a b ha hb
  have hproduct : (a.value : ℝ) * b.value = ((a.signedUnits * b.signedUnits : ℤ) : ℝ) / (2 ^ 149 * 2 ^ 149) := by
    rw [value_cast, value_cast]
    push_cast
    ring
  have hexact : |(a.value : ℝ) * b.value| * 2 ^ 149 * 2 ^ 149 = (a.units * b.units : ℕ) := by
    rw [abs_mul, abs_value, abs_value]
    push_cast
    field_simp
  rw [fmul_of_isFinite ha hb]
  refine roundsTo_ofMag_roundMag (fun h => ?_) (fun h => ?_) hexact
  · rw [hproduct, signedUnits_mul, if_pos h, Int.cast_neg, Int.cast_natCast, neg_div, neg_nonpos]
    positivity
  · rw [hproduct, signedUnits_mul, h, if_neg Bool.false_ne_true, Int.cast_natCast]
    positivity

/-! ### The square root (R126) -/

/-- The search of `isqrtFrom` keeps `r² ≤ n` and closes in on the root from above. -/
theorem isqrtFrom_bounds (n k r : Nat) (hlow : r * r ≤ n) (hhigh : n < (r + 2 ^ k) * (r + 2 ^ k)) :
    isqrtFrom n k r * isqrtFrom n k r ≤ n ∧ n < (isqrtFrom n k r + 1) * (isqrtFrom n k r + 1) := by
  induction k generalizing r with
  | zero => exact ⟨hlow, hhigh⟩
  | succ k ih =>
    rw [isqrtFrom]
    split
    next hle => exact ih (r + 2 ^ k) hle (by rwa [add_assoc, ← two_mul, ← pow_succ'])
    next hgt => exact ih r hlow (not_le.mp hgt)

/-- `isqrt` is the integer square root on the range that it is used on. -/
theorem isqrt_eq_sqrt (hn : n < 2 ^ 213 * 2 ^ 213) : isqrt n = Nat.sqrt n := by
  obtain ⟨hlow, hhigh⟩ := isqrtFrom_bounds n 213 0 (Nat.zero_le n) (by rwa [zero_add])
  exact Nat.eq_sqrt.mpr ⟨hlow, hhigh⟩

/-- A finite magnitude stays below 2¹²⁸. -/
theorem units_lt_of_isFinite (ha : a.isFinite = true) : a.units < 2 ^ 24 * 2 ^ 253 := by
  have hinf : gridUnits infMag = 2 ^ 24 * 2 ^ 253 := gridUnits_binade (e := 253) (c := 2 ^ 24) le_rfl (by simp)
  have hlt := gridUnits_strictMono ((isFinite_iff a).mp ha)
  rwa [← units_eq_gridUnits, hinf] at hlt

/-- A finite non-zero operand without the sign: the integer root with its sticky bit, rounded. -/
theorem fsqrt_of_isFinite (ha : a.isFinite = true) (hm : a.mag ≠ 0) (hs : a.sign = false) :
    fsqrt nan a =
      ofMag false (roundMag (withSticky (Nat.sqrt (a.units * 2 ^ 149))
        (Nat.sqrt (a.units * 2 ^ 149) * Nat.sqrt (a.units * 2 ^ 149) != a.units * 2 ^ 149)) 1) := by
  have hn : a.units * 2 ^ 149 < 2 ^ 213 * 2 ^ 213 := by
    have hu := units_lt_of_isFinite ha
    omega
  simp only [fsqrt, not_isNaN_of_isFinite ha, hm, hs, not_isInf_of_isFinite ha, isqrt_eq_sqrt hn, if_false,
    Bool.false_eq_true]

/-- The integer root with its sticky bit stands for twice the real root. -/
theorem standsFor_sqrt (n : Nat) {d : Nat} (hd : 2 ≤ d) :
    StandsFor (withSticky (Nat.sqrt n) (Nat.sqrt n * Nat.sqrt n != n)) d (Real.sqrt n * 2) := by
  refine standsFor_withSticky (Real.nat_sqrt_le_real_sqrt) (Real.real_sqrt_lt_nat_sqrt_succ) ?_ hd
  rw [bne_iff_ne, not_iff_not, eq_comm, ← Nat.cast_inj (R := ℝ), Nat.cast_mul, eq_comm (b := Real.sqrt n),
    Real.sqrt_eq_iff_mul_self_eq (Nat.cast_nonneg _) (Nat.cast_nonneg _)]

theorem sign_of_value_nonneg (hnonneg : 0 ≤ a.value) (hm : a.mag ≠ 0) : a.sign = false := by
  by_contra hs
  rw [value_eq_signedUnits, signedUnits, if_pos (by simpa using hs)] at hnonneg
  have hunits : (0 : ℚ) < a.units := Nat.cast_pos.mpr (Nat.pos_of_ne_zero (mt units_eq_zero_iff.mp hm))
  have hneg : ((-(a.units : ℤ) : ℤ) : ℚ) / 2 ^ 149 < 0 := div_neg_of_neg_of_pos (by simpa using hunits) (by positivity)
  linarith

/-- The root in units of 2⁻¹⁴⁹ is the root of the units times 2¹⁴⁹. -/
theorem sqrt_units (u : Nat) : Real.sqrt (u / 2 ^ 149) * 2 ^ 149 = Real.sqrt ((u * 2 ^ 149 : ℕ) : ℝ) := by
  have hscale : (u : ℝ) / 2 ^ 149 * (2 ^ 149 * 2 ^ 149) = ((u * 2 ^ 149 : ℕ) : ℝ) := by
    rw [← mul_assoc, div_mul_cancel₀ _ (by positivity), Nat.cast_mul, Nat.cast_pow, Nat.cast_ofNat]
  rw [← hscale, Real.sqrt_mul (by positivity), Real.sqrt_mul_self (by positivity)]

/-- Settles O36: a zero is its own root, and the root of a positive number fills a fraction with bits to spare. -/
theorem fsqrtRoundsTheExactRoot : Obligations.FsqrtRoundsTheExactRoot := by
  intro nan a ha hnonneg
  rcases eq_or_ne a.mag 0 with hm | hm
  · have hroot : fsqrt nan a = ofMag a.sign (roundMag 0 0) := by
      rw [fsqrt, not_isNaN_of_isFinite ha, if_neg Bool.false_ne_true, if_pos hm]
      exact (hm ▸ ofMag_sign_mag a).symm
    have hzero : Real.sqrt a.value = 0 := by
      rw [value_cast, signedUnits, units_eq_zero_iff.mpr hm]
      simp
    rw [hroot, hzero]
    exact roundsTo_ofMag_roundMag (by simp) (by simp) (by simp)
  · have hs := sign_of_value_nonneg hnonneg hm
    have hvalue : (a.value : ℝ) = a.units / 2 ^ 149 := by
      rw [← abs_value, abs_of_nonneg (by exact_mod_cast hnonneg)]
    have hunits : 1 ≤ a.units := Nat.one_le_iff_ne_zero.mpr (mt units_eq_zero_iff.mp hm)
    have hbits : 2 ^ 24 ≤ Nat.sqrt (a.units * 2 ^ 149) := Nat.le_sqrt.mpr (by omega)
    rw [fsqrt_of_isFinite ha hm hs]
    refine roundsTo_roundMag (Real.sqrt_nonneg _) ?_
    rw [hvalue, sqrt_units, pow_one]
    exact standsFor_sqrt _ (two_le_dropBits_withSticky hbits _ 1)

/-! ### Infinities and NaNs (R132) -/

theorem isNaN_of_isInf (h : a.isInf = true) : a.isNaN = false :=
  (isNaN_eq_false_iff a).mpr ((isInf_iff a).mp h).le

/-- Settles O37: operand by operand of the class tests at the head of each operation. -/
theorem infinitiesAndInvalidOperands : Obligations.InfinitiesAndInvalidOperands := by
  intro nan a b ha hb
  refine ⟨fun hia hib => ?_, fun hia hib => ?_, fun hia hzero => ?_, fun hia hne => ?_, fun hia hs => ?_,
    fun hs hne => ?_⟩
  · simp [fadd, ha, hb, hia, hib]
  · simp [fadd, ha, hb, hia, hib]
  · simp [fmul, ha, hb, hia, hzero]
  · have hmag : a.mag ≠ 0 := by rw [(isInf_iff a).mp hia]; decide
    have hab : fmul nan a b = ofMag (a.sign != b.sign) infMag := by simp [fmul, ha, hb, hia, hmag, hne]
    have hba : fmul nan b a = ofMag (b.sign != a.sign) infMag := by simp [fmul, ha, hb, hia, hmag, hne]
    rw [hab, hba, sign_ofMag, bne_iff_ne]
    exact ⟨isInf_ofMag_infMag, Iff.rfl, by rw [bne_comm]⟩
  · have hmag : a.mag ≠ 0 := by rw [(isInf_iff a).mp hia]; decide
    simp [fsqrt, ha, hia, hs, hmag]
  · simp [fsqrt, ha, hs, hne]

theorem signedUnits_add_eq_zero (h : a.value + b.value = 0) : a.signedUnits + b.signedUnits = 0 := by
  rw [value_eq_signedUnits, value_eq_signedUnits, ← add_div, div_eq_zero_iff, or_iff_left (by positivity)] at h
  exact_mod_cast h

/-- Two negative numbers whose sum is 0 are both −0. -/
theorem negative_zeros (ha : a.sign = true) (hb : b.sign = true) (h : a.signedUnits + b.signedUnits = 0) :
    a = 0x80000000 ∧ b = 0x80000000 := by
  rw [signedUnits, signedUnits, if_pos ha, if_pos hb] at h
  have hzero {c : F32} (hs : c.sign = true) (hu : c.units = 0) : c = 0x80000000 :=
    eq_of_sign_mag (hs.trans (by decide)) ((units_eq_zero_iff.mp hu).trans (by decide))
  exact ⟨hzero ha (by omega), hzero hb (by omega)⟩

/-- Settles O38: the zero sum has the common sign of two zeros, a product's sign is written on it, and a zero passes. -/
theorem signsOfZerosAndProducts : Obligations.SignsOfZerosAndProducts := by
  intro nan a b ha hb
  refine ⟨fun hsum => ?_, ?_, fun hzero => ?_⟩
  · rw [fadd_of_isFinite ha hb, if_pos (signedUnits_add_eq_zero hsum)]
    split
    next h =>
      rw [h.1, h.2]
      rfl
    next h =>
      have hsigns : (a.sign && b.sign) = false := by
        by_contra hboth
        rw [Bool.not_eq_false, Bool.and_eq_true] at hboth
        exact h (negative_zeros hboth.1 hboth.2 (signedUnits_add_eq_zero hsum))
      rw [hsigns]
      rfl
  · rw [fmul_of_isFinite ha hb, sign_ofMag, bne_iff_ne]
  · simp [fsqrt, not_isNaN_of_isFinite ha, mag_eq_zero_of_value hzero]

/-! ### The drawn NaN (R132) -/

/-- Each operation returns the drawn NaN or a number. -/
theorem fadd_eq_nan_or (nan a b : F32) : fadd nan a b = nan ∨ (fadd nan a b).isNaN = false := by
  rw [fadd]
  split
  next => exact .inl rfl
  next hnum =>
    have hnum : a.isNaN = false ∧ b.isNaN = false := by simpa using hnum
    split
    next =>
      split
      next => exact .inl rfl
      next => exact .inr hnum.1
    next =>
      split
      next => exact .inr hnum.2
      next =>
        refine .inr ?_
        dsimp only
        split
        next => exact not_isNaN_ofMag (by decide)
        next => exact not_isNaN_ofMag (roundMag_le_infMag _ _)

theorem fmul_eq_nan_or (nan a b : F32) : fmul nan a b = nan ∨ (fmul nan a b).isNaN = false := by
  rw [fmul]
  split
  next => exact .inl rfl
  next =>
    split
    next =>
      split
      next => exact .inl rfl
      next => exact .inr (not_isNaN_ofMag le_rfl)
    next => exact .inr (not_isNaN_ofMag (roundMag_le_infMag _ _))

theorem fsqrt_eq_nan_or (nan a : F32) : fsqrt nan a = nan ∨ (fsqrt nan a).isNaN = false := by
  rw [fsqrt]
  split
  next => exact .inl rfl
  next hnum =>
    have hnum : a.isNaN = false := by simpa using hnum
    split
    next => exact .inr hnum
    next =>
      split
      next => exact .inl rfl
      next =>
        split
        next => exact .inr hnum
        next => exact .inr (not_isNaN_ofMag (roundMag_le_infMag _ _))

theorem orDrawn_eq_nan_or (nan r : F32) : orDrawn nan r = nan ∨ (orDrawn nan r).isNaN = false := by
  rw [orDrawn]
  split
  next => exact .inl rfl
  next h => exact .inr (by simpa using h)

/-- A NaN operand passes none of its payload on. -/
theorem fadd_of_isNaN (h : a.isNaN = true ∨ b.isNaN = true) : fadd nan a b = nan := by
  rw [fadd, if_pos (by simpa using h)]

theorem fmul_of_isNaN (h : a.isNaN = true ∨ b.isNaN = true) : fmul nan a b = nan := by
  rw [fmul, if_pos (by simpa using h)]

theorem fsqrt_of_isNaN (h : a.isNaN = true) : fsqrt nan a = nan := by
  rw [fsqrt, if_pos h]

theorem isQuietNaN_quietNaN (d : BitVec 23) : (quietNaN d).isQuietNaN = true := by
  have hexpo : (quietNaN d).extractLsb' 23 8 = 0xFF := by
    apply BitVec.eq_of_getLsbD_eq
    intro i hi
    simp only [quietNaN, BitVec.getLsbD_extractLsb', BitVec.getLsbD_append]
    interval_cases i <;> simp
  have hquiet : (quietNaN d).getLsbD 22 = true := by
    simp only [quietNaN, BitVec.getLsbD_append]
    simp
  rw [isQuietNaN, expo, hexpo, hquiet]
  rfl

/-- Bit 22 is a bit of the fraction. -/
theorem isNaN_of_isQuietNaN (h : a.isQuietNaN = true) : a.isNaN = true := by
  obtain ⟨hexpo, hquiet⟩ := Bool.and_eq_true_iff.mp h
  refine Bool.and_eq_true_iff.mpr ⟨hexpo, bne_iff_ne.mpr fun hzero => ?_⟩
  have hbit : (a.extractLsb' 0 23).getLsbD 22 = a.getLsbD 22 := by simp
  rw [BitVec.eq_of_toNat_eq (y := 0) hzero, hquiet] at hbit
  exact absurd hbit (by decide)

theorem isNaN_freshNaN (c i k : Nat) : (freshNaN c i k).isNaN = true :=
  isNaN_of_isQuietNaN (isQuietNaN_quietNaN _)

/-- What returns the drawn NaN or a number returns no other NaN. -/
theorem eq_nan_of_isNaN {r : F32} (h : r = nan ∨ r.isNaN = false) (hnan : r.isNaN = true) : r = nan :=
  h.resolve_right (by simp [hnan])

/-- Settles O39: no operation, and neither log mode, returns a NaN that is not the drawn one. -/
theorem naNResultsAreTheDrawnQuietNaN : Obligations.NaNResultsAreTheDrawnQuietNaN := by
  refine ⟨fun c i k => isQuietNaN_quietNaN _, fun d => isNaN_of_isQuietNaN (isQuietNaN_quietNaN d), fun nan a b =>
    ⟨fun h => ⟨fadd_of_isNaN h, fmul_of_isNaN h⟩, fsqrt_of_isNaN, eq_nan_of_isNaN (fadd_eq_nan_or nan a b),
      eq_nan_of_isNaN (fmul_eq_nan_or nan a b), eq_nan_of_isNaN (fsqrt_eq_nan_or nan a),
      fun log10f lnf mode natural => eq_nan_of_isNaN ?_⟩⟩
  cases natural with
  | true => exact orDrawn_eq_nan_or nan _
  | false => exact fmul_eq_nan_or nan _ _

/-! ### Magnitude and power are not negative (R168, R170, R178) -/

/-- A NaN, or a number with sign 0. -/
def NotNegative (a : F32) : Prop := a.isNaN = false → a.sign = false

theorem ne_of_isNaN {r : F32} (hnan : nan.isNaN = true) (h : r.isNaN = false) : r ≠ nan := by
  rintro rfl
  simp [hnan] at h

theorem numbers_of_ne {r : F32} (h : r ≠ nan) (hnan : a.isNaN = true ∨ b.isNaN = true → r = nan) :
    a.isNaN = false ∧ b.isNaN = false := by
  have hneither := mt hnan h
  simpa only [not_or, Bool.not_eq_true] using hneither

/-- The factors of a product that is a number are numbers, and their signs make its sign. -/
theorem sign_fmul (hnan : nan.isNaN = true) (h : (fmul nan a b).isNaN = false) :
    a.isNaN = false ∧ b.isNaN = false ∧ (fmul nan a b).sign = (a.sign != b.sign) := by
  have hne := ne_of_isNaN hnan h
  obtain ⟨ha, hb⟩ := numbers_of_ne hne fmul_of_isNaN
  refine ⟨ha, hb, ?_⟩
  rw [fmul, if_neg (by simp [ha, hb])] at hne ⊢
  split_ifs at hne ⊢ with hinf hzero
  · exact absurd rfl hne
  · exact sign_ofMag _ _
  · exact sign_ofMag _ _

theorem notNegative_fmul (hnan : nan.isNaN = true) (ha : NotNegative a) (hb : NotNegative b) :
    NotNegative (fmul nan a b) := by
  intro h
  obtain ⟨hna, hnb, hsign⟩ := sign_fmul hnan h
  rw [hsign, ha hna, hb hnb]
  rfl

/-- A square is not negative, whatever is squared. -/
theorem notNegative_square (hnan : nan.isNaN = true) (a : F32) : NotNegative (fmul nan a a) := by
  intro h
  obtain ⟨-, -, hsign⟩ := sign_fmul hnan h
  rw [hsign, bne_self_eq_false]

theorem signedUnits_nonneg (h : a.sign = false) : 0 ≤ a.signedUnits := by
  rw [signedUnits, h, if_neg Bool.false_ne_true]
  exact Int.natCast_nonneg _

theorem notNegative_fadd (hnan : nan.isNaN = true) (ha : NotNegative a) (hb : NotNegative b) :
    NotNegative (fadd nan a b) := by
  intro h
  have hne := ne_of_isNaN hnan h
  obtain ⟨hna, hnb⟩ := numbers_of_ne hne fadd_of_isNaN
  have hsum := add_nonneg (signedUnits_nonneg (ha hna)) (signedUnits_nonneg (hb hnb))
  rw [fadd, if_neg (by simp [hna, hnb])]
  dsimp only
  split_ifs with hia hopposite hib hzero
  · simp [ha hna, hb hnb] at hopposite
  · exact ha hna
  · exact hb hnb
  · simp [ha hna]
  · simpa using hsum

theorem notNegative_fsqrt (hnan : nan.isNaN = true) (ha : NotNegative a) : NotNegative (fsqrt nan a) := by
  intro h
  have hne := ne_of_isNaN hnan h
  have hna : a.isNaN = false := Bool.eq_false_iff.mpr (mt fsqrt_of_isNaN hne)
  rw [fsqrt, if_neg (by simp [hna]), ha hna, if_neg Bool.false_ne_true]
  dsimp only
  split_ifs
  · exact ha hna
  · exact ha hna
  · exact sign_ofMag _ _

/-- Settles O41: both are made of squares, sums and products of what is not negative, and a root of it. -/
theorem magnitudeAndPowerAreNotNegative : Obligations.MagnitudeAndPowerAreNotNegative := by
  intro path nan x y c hc
  refine ⟨fun h hnan => ?_, fun m hm hnan h => ?_⟩
  · have hsum := notNegative_fadd (hnan 2) (notNegative_square (hnan 0) x) (notNegative_square (hnan 1) y)
    cases path with
    | roundTrip => exact notNegative_fsqrt (hnan 3) hsum h
    | direct => exact hsum h
  · cases path with
    | roundTrip => exact notNegative_fmul (hnan 1) (notNegative_square (hnan 0) m) (fun _ => hc) h
    | direct => exact notNegative_fmul (hnan 0) (fun _ => hm) (fun _ => hc) h

end Sys2Proof.F32
end

section
/-!
LOGC (43_core_kernels.md R173, R174), and the micro-ops told by the values that their sources hold: each completes,
keeps its frame, and leaves its lane function of those values.
-/

namespace Sys2Proof.Machine

variable {α β : Type} {s t : State} {i : Instr} {dst sa sb : BufId} {len : Nat}

/-! ### LOGC -/

theorem exec_logc (dst sa : BufId) (len : Nat) (s : State) :
    exec (.logc dst sa len) s =
      s.checked (.logc dst sa len) (s.unary dst sa len fun i x =>
        logcLane Config.log10f Config.lnf s.params.clampNaN s.logmodeL (freshNaN s.draws i 0) x) := rfl

/-- The two log modes, with the drawn NaN for a NaN of either (R173, R174). -/
theorem logcLane_eq_ite (log10f lnf : F32 → F32) (mode : ClampNaN) (natural : Bool) (nan p : F32) :
    logcLane log10f lnf mode natural nan p =
      if natural = false then F32.fmul nan 0x41200000 (log10f (clampLane mode p))
      else if (lnf (clampLane mode p)).isNaN then nan else lnf (clampLane mode p) := by
  cases natural <;> rfl

/-- Settles O22: LOGC is a kernel of one real source whose lane function follows the latched mode bit. -/
theorem logcWritesTheLogarithms : Obligations.LogcWritesTheLogarithms := by
  intro s dst sa len hm hwf ha
  simp only [exec_logc, logcLane_eq_ite]
  exact checked_unary_spec rfl rfl _ hm hwf ha

/-! ### A completed micro-op -/

/-- Lanes `0 .. len-1` of a buffer hold the values `v`. -/
def Holds (b : Buffer α) (len : Nat) (v : Nat → α) : Prop := ∀ i < len, cellAt b i = some (v i)

theorem Holds.written {b : Buffer α} {v : Nat → α} (h : Holds b len v) : Written b len := fun i hi => by
  rw [h i hi]
  rfl

theorem exists_holds {b : Buffer F32} (h : Written b len) : ∃ v, Holds b len v :=
  ⟨fun i => (cellAt b i).getD 0, fun i hi => by
    obtain ⟨x, hx⟩ := Option.isSome_iff_exists.mp (h i hi)
    simp only [hx, Option.getD_some]⟩

/-- `i` has run from `s` to `t` and written lanes of `dst`: its frame, the buffers' lengths, and one draw taken. -/
structure Completed (i : Instr) (s t : State) (dst : BufId) (len : Nat) : Prop where
  exec : exec i s = .next t
  frame : KernelFrame s t dst len
  wf : Memory.wf t
  draws : t.draws = s.draws + 1

/-- Every effect of a micro-op keeps the buffers' lengths. -/
theorem MicroOpEffect.wf (h : MicroOpEffect s t) (hm : Memory.wf s) : Memory.wf t := by
  cases h with
  | storedReal dst vs => exact wf_storeReal hm dst vs
  | storedCplx dst vs => exact wf_storeCplx hm dst vs
  | answered c x ok y =>
    cases ok with
    | true => exact wf_storeCplx (s := { s with port := some (.forward c x) }) hm .fout _
    | false => exact wf_transformFailure (s := { s with port := some (.forward c x) }) hm
  | faulted | ended => exact hm

/-- The micro-ops that move `upc` on are those that take a draw. -/
theorem MicroOpEffect.draws (h : MicroOpEffect s t) (hupc : t.upc = s.upc + 1) : t.draws = s.draws + 1 := by
  cases h with
  | storedReal dst vs => simp [State.storeReal]
  | storedCplx dst vs => simp [State.storeCplx]
  | answered c x ok y =>
    cases ok with
    | true => rfl
    | false => rfl
  | faulted | ended => exact absurd hupc (Nat.succ_ne_self s.upc).symm

theorem completed_of_frame (hi : i.isMicroOp = true) (hm : Memory.wf s) (hexec : exec i s = .next t)
    (hframe : KernelFrame s t dst len) : Completed i s t dst len :=
  have heffect := exec_microOp_effect hi hexec
  ⟨hexec, hframe, heffect.wf hm, heffect.draws hframe.upc⟩

/-! ### The micro-ops, by the values that they read -/

section

variable {x y : Nat → F32} {z : Nat → C32}

theorem copy_completes (hm : Memory.wf s) (hwf : (Instr.copy dst sa len).wellFormed s.params = true)
    (hx : Holds (s.realBuf sa) len x) :
    ∃ t, Completed (.copy dst sa len) s t dst len ∧ Holds (t.realBuf dst) len x := by
  obtain ⟨t, hexec, hframe, -, hlanes⟩ := copyMovesThePatterns s dst sa len hm hwf hx.written
  exact ⟨t, completed_of_frame rfl hm hexec hframe, fun i hi => (hlanes i hi).trans (hx i hi)⟩

theorem add_completes (hm : Memory.wf s) (hwf : (Instr.add dst sa sb len).wellFormed s.params = true)
    (hx : Holds (s.realBuf sa) len x) (hy : Holds (s.realBuf sb) len y) :
    ∃ t, Completed (.add dst sa sb len) s t dst len ∧
      Holds (t.realBuf dst) len fun i => F32.fadd (freshNaN s.draws i 0) (x i) (y i) := by
  obtain ⟨t, hexec, hframe, -, hlanes⟩ := addWritesTheSums s dst sa sb len hm hwf hx.written hy.written
  exact ⟨t, completed_of_frame rfl hm hexec hframe, fun i hi => hlanes i hi _ _ (hx i hi) (hy i hi)⟩

theorem mul_completes (hm : Memory.wf s) (hwf : (Instr.mul dst sa sb len).wellFormed s.params = true)
    (hx : Holds (s.realBuf sa) len x) (hy : Holds (s.realBuf sb) len y) :
    ∃ t, Completed (.mul dst sa sb len) s t dst len ∧
      Holds (t.realBuf dst) len fun i => F32.fmul (freshNaN s.draws i 0) (x i) (y i) := by
  obtain ⟨t, hexec, hframe, -, hlanes⟩ := mulWritesTheProducts s dst sa sb len hm hwf hx.written hy.written
  exact ⟨t, completed_of_frame rfl hm hexec hframe, fun i hi => hlanes i hi _ _ (hx i hi) (hy i hi)⟩

theorem sqrt_completes (hm : Memory.wf s) (hwf : (Instr.sqrt dst sa len).wellFormed s.params = true)
    (hx : Holds (s.realBuf sa) len x) :
    ∃ t, Completed (.sqrt dst sa len) s t dst len ∧
      Holds (t.realBuf dst) len fun i => F32.fsqrt (freshNaN s.draws i 0) (x i) := by
  obtain ⟨t, hexec, hframe, -, hlanes⟩ := sqrtWritesTheRoots s dst sa len hm hwf hx.written
  exact ⟨t, completed_of_frame rfl hm hexec hframe, fun i hi => hlanes i hi _ (hx i hi)⟩

theorem sqr_completes (hm : Memory.wf s) (hwf : (Instr.sqr dst sa len).wellFormed s.params = true)
    (hx : Holds (s.realBuf sa) len x) :
    ∃ t, Completed (.sqr dst sa len) s t dst len ∧
      Holds (t.realBuf dst) len fun i => F32.fmul (freshNaN s.draws i 0) (x i) (x i) := by
  obtain ⟨t, hexec, hframe, -, hlanes⟩ := sqrWritesTheSquares s dst sa len hm hwf hx.written
  exact ⟨t, completed_of_frame rfl hm hexec hframe, fun i hi => hlanes i hi _ (hx i hi)⟩

theorem winmul_completes (hm : Memory.wf s) (hwf : (Instr.winmul dst sa len).wellFormed s.params = true)
    (hx : Holds (s.realBuf sa) len x) (hy : Holds s.hann len y) :
    ∃ t, Completed (.winmul dst sa len) s t dst len ∧
      Holds (t.realBuf dst) len fun i => F32.fmul (freshNaN s.draws i 0) (x i) (y i) := by
  obtain ⟨t, hexec, hframe, -, hlanes⟩ := winmulAppliesTheWindow s dst sa len hm hwf hx.written hy.written
  exact ⟨t, completed_of_frame rfl hm hexec hframe, fun i hi => hlanes i hi _ _ (hx i hi) (hy i hi)⟩

/-- Under `ROUNDTRIP` (R168). -/
theorem cmag_completes (hm : Memory.wf s) (hpath : s.params.powerPath = .roundTrip)
    (hwf : (Instr.cmag dst sa sb len).wellFormed s.params = true)
    (hx : Holds (s.realBuf sa) len x) (hy : Holds (s.realBuf sb) len y) :
    ∃ t, Completed (.cmag dst sa sb len) s t dst len ∧
      Holds (t.realBuf dst) len fun i =>
        F32.fsqrt (freshNaN s.draws i 3) (F32.fadd (freshNaN s.draws i 2)
          (F32.fmul (freshNaN s.draws i 0) (x i) (x i)) (F32.fmul (freshNaN s.draws i 1) (y i) (y i))) := by
  obtain ⟨t, hexec, hframe, -, hlanes⟩ := cmagWritesTheMagnitudes s dst sa sb len hm hwf hx.written hy.written
  exact ⟨t, completed_of_frame rfl hm hexec hframe,
    fun i hi => (hlanes i hi _ _ (hx i hi) (hy i hi)).trans (congrArg some (if_pos hpath))⟩

/-- Under `ROUNDTRIP` (R170). -/
theorem pnorm_completes (hm : Memory.wf s) (hpath : s.params.powerPath = .roundTrip)
    (hwf : (Instr.pnorm dst sa len).wellFormed s.params = true)
    (hx : Holds (s.realBuf sa) len x) (hy : Holds s.pcoef len y) :
    ∃ t, Completed (.pnorm dst sa len) s t dst len ∧
      Holds (t.realBuf dst) len fun i =>
        F32.fmul (freshNaN s.draws i 1) (F32.fmul (freshNaN s.draws i 0) (x i) (x i)) (y i) := by
  obtain ⟨t, hexec, hframe, -, hlanes⟩ := pnormWritesTheNormalizedPower s dst sa len hm hwf hx.written hy.written
  exact ⟨t, completed_of_frame rfl hm hexec hframe,
    fun i hi => (hlanes i hi _ _ (hx i hi) (hy i hi)).trans (congrArg some (if_pos hpath))⟩

theorem logc_completes (hm : Memory.wf s) (hwf : (Instr.logc dst sa len).wellFormed s.params = true)
    (hx : Holds (s.realBuf sa) len x) :
    ∃ t, Completed (.logc dst sa len) s t dst len ∧
      Holds (t.realBuf dst) len fun i =>
        let pc := clampLane s.params.clampNaN (x i)
        if s.logmodeL = false then F32.fmul (freshNaN s.draws i 0) 0x41200000 (Config.log10f pc)
        else if (Config.lnf pc).isNaN then freshNaN s.draws i 0 else Config.lnf pc := by
  obtain ⟨t, hexec, hframe, -, hlanes⟩ := logcWritesTheLogarithms s dst sa len hm hwf hx.written
  exact ⟨t, completed_of_frame rfl hm hexec hframe, fun i hi => hlanes i hi _ (hx i hi)⟩

theorem pack_completes (hm : Memory.wf s) (hwf : (Instr.pack dst sa len).wellFormed s.params = true)
    (hx : Holds (s.realBuf sa) len x) :
    ∃ t, Completed (.pack dst sa len) s t dst len ∧ Holds (t.cplxBuf dst) len fun i => { re := x i, im := 0 } := by
  obtain ⟨t, hexec, hframe, -, hlanes⟩ := packBuildsTheComplexSequence s dst sa len hm hwf hx.written
  exact ⟨t, completed_of_frame rfl hm hexec hframe, fun i hi => hlanes i hi _ (hx i hi)⟩

theorem real_completes (hm : Memory.wf s) (hwf : (Instr.real dst sa len).wellFormed s.params = true)
    (hz : Holds (s.cplxBuf sa) len z) :
    ∃ t, Completed (.real dst sa len) s t dst len ∧ Holds (t.realBuf dst) len fun i => (z i).re := by
  obtain ⟨t, hexec, hframe, -, hlanes⟩ := realTakesTheRealParts s dst sa len hm hwf hz.written
  exact ⟨t, completed_of_frame rfl hm hexec hframe, fun i hi => by rw [hlanes i hi, hz i hi, Option.map_some]⟩

theorem imag_completes (hm : Memory.wf s) (hwf : (Instr.imag dst sa len).wellFormed s.params = true)
    (hz : Holds (s.cplxBuf sa) len z) :
    ∃ t, Completed (.imag dst sa len) s t dst len ∧ Holds (t.realBuf dst) len fun i => (z i).im := by
  obtain ⟨t, hexec, hframe, -, hlanes⟩ := imagTakesTheImaginaryParts s dst sa len hm hwf hz.written
  exact ⟨t, completed_of_frame rfl hm hexec hframe, fun i hi => by rw [hlanes i hi, hz i hi, Option.map_some]⟩

end

/-! ### What a completed micro-op leaves -/

theorem Completed.real_ne (h : Completed i s t dst len) {b : BufId} (hb : b ≠ dst) : t.realBuf b = s.realBuf b :=
  h.frame.otherReal b hb

theorem Completed.params (h : Completed i s t dst len) : t.params = s.params := h.frame.control.params

end Sys2Proof.Machine
end

section
/-!
Equalities of kernels (30_encoding.md R110, 40_vector_kernels.md R122): an operation depends on the drawn NaN for the
payload of its NaN results alone, so micro-op sequences that differ in the draws alone agree up to a NaN's payload; and
the lanes of one micro-op do not see one another.
-/

namespace Sys2Proof.F32

variable {n n' a a' b b' : F32}

/-! ### Equality up to the payload of a NaN -/

theorem SameUpToNaN.refl (a : F32) : SameUpToNaN a a := .inl rfl

theorem fadd_draw (n n' a b : F32) : fadd n a b = fadd n' a b ∨ fadd n a b = n ∧ fadd n' a b = n' := by
  simp only [fadd]
  split_ifs <;> simp

theorem fmul_draw (n n' a b : F32) : fmul n a b = fmul n' a b ∨ fmul n a b = n ∧ fmul n' a b = n' := by
  simp only [fmul]
  split_ifs <;> simp

theorem fsqrt_draw (n n' a : F32) : fsqrt n a = fsqrt n' a ∨ fsqrt n a = n ∧ fsqrt n' a = n' := by
  simp only [fsqrt]
  split_ifs <;> simp

theorem SameUpToNaN.of_draw {r r' : F32} (hn : n.isNaN = true) (hn' : n'.isNaN = true)
    (h : r = r' ∨ r = n ∧ r' = n') : SameUpToNaN r r' :=
  h.imp_right fun ⟨h, h'⟩ => ⟨h ▸ hn, h' ▸ hn'⟩

/-- Operands that agree up to a NaN's payload give results that do, whatever NaNs are drawn. -/
theorem SameUpToNaN.fadd (hn : n.isNaN = true) (hn' : n'.isNaN = true) (ha : SameUpToNaN a a')
    (hb : SameUpToNaN b b') : SameUpToNaN (fadd n a b) (fadd n' a' b') := by
  refine of_draw hn hn' ?_
  rcases ha with rfl | ⟨ha, ha'⟩
  · rcases hb with rfl | ⟨hb, hb'⟩
    · exact fadd_draw n n' a b
    · exact .inr ⟨fadd_of_isNaN (.inr hb), fadd_of_isNaN (.inr hb')⟩
  · exact .inr ⟨fadd_of_isNaN (.inl ha), fadd_of_isNaN (.inl ha')⟩

theorem SameUpToNaN.fsqrt (hn : n.isNaN = true) (hn' : n'.isNaN = true) (ha : SameUpToNaN a a') :
    SameUpToNaN (fsqrt n a) (fsqrt n' a') := by
  refine of_draw hn hn' ?_
  rcases ha with rfl | ⟨ha, ha'⟩
  · exact fsqrt_draw n n' a
  · exact .inr ⟨fsqrt_of_isNaN ha, fsqrt_of_isNaN ha'⟩

/-- The same operands, other draws. -/
theorem sameUpToNaN_fmul (hn : n.isNaN = true) (hn' : n'.isNaN = true) (a b : F32) :
    SameUpToNaN (fmul n a b) (fmul n' a b) :=
  .of_draw hn hn' (fmul_draw n n' a b)

end Sys2Proof.F32

namespace Sys2Proof.Machine

open F32

variable {s t : State}

/-! ### The pseudo-instructions of R110 -/

/-- Settles O44: both sequences square under one draw; the products that follow differ in their draws alone. -/
theorem pnormIsSqrThenMulByPcoef : Obligations.PnormIsSqrThenMulByPcoef := by
  intro s d a len hm hpath hwf ha hpcoef
  obtain ⟨hunary, hfitn⟩ := Bool.and_eq_true_iff.mp hwf
  obtain ⟨⟨hd, -⟩, hpos, hfitd, -⟩ := wfUnary_iff.mp hunary
  have hne : BufId.pcoef ≠ d := by rintro rfl; cases hd
  obtain ⟨x, hx⟩ := exists_holds ha
  obtain ⟨c, hc⟩ := exists_holds hpcoef
  obtain ⟨t, ht, htd⟩ := pnorm_completes hm hpath hwf hx hc
  obtain ⟨u, hu, hud⟩ := sqr_completes (dst := d) hm hunary hx
  have hmul : (Instr.mul d d .pcoef len).wellFormed u.params = true := by
    rw [hu.params]
    exact wfBinary_iff.mpr ⟨⟨wfUnary_iff.mpr ⟨⟨hd, isReal_of_isRealW hd⟩, hpos, hfitd, hfitd⟩, rfl⟩,
      of_decide_eq_true hfitn⟩
  have hcu : Holds (u.realBuf .pcoef) len c := by rw [hu.real_ne hne]; exact hc
  obtain ⟨v, hv, hvd⟩ := mul_completes hu.wf hmul hud hcu
  refine ⟨t, u, v, ht.exec, hu.exec, hv.exec, fun b hb => ⟨?_, ?_⟩, fun i => ?_⟩
  · rw [ht.real_ne hb, hv.real_ne hb, hu.real_ne hb]
  · rw [ht.frame.otherCplx b hb, hv.frame.otherCplx b hb, hu.frame.otherCplx b hb]
  · rcases lt_or_ge i len with hi | hi
    · rw [htd i hi, hvd i hi]
      exact sameUpToNaN_fmul (isNaN_freshNaN _ _ _) (isNaN_freshNaN _ _ _) _ _
    · rw [ht.frame.beyondReal i hi, hv.frame.beyondReal i hi, hu.frame.beyondReal i hi]
      cases cellAt (s.realBuf d) i with
      | none => exact trivial
      | some x => exact .refl x

/-- Settles O45: the four micro-ops compute CMAG's lane with other draws. -/
theorem cmagIsItsFourKernels : Obligations.CmagIsItsFourKernels := by
  intro s d x y len hm hpath hd hx hy hxy hwf hwx hwy
  obtain ⟨⟨hunary, -⟩, hfity⟩ := wfBinary_iff.mp hwf
  obtain ⟨-, hpos, hfitd, hfitx⟩ := wfUnary_iff.mp hunary
  have inPlace {p : Params} {b : BufId} (hb : b.isRealW = true) (hfit : len ≤ p.bufLen b) :
      Instr.wfUnary p b b len = true := wfUnary_iff.mpr ⟨⟨hb, isReal_of_isRealW hb⟩, hpos, hfit, hfit⟩
  obtain ⟨vx, hvx⟩ := exists_holds hwx
  obtain ⟨vy, hvy⟩ := exists_holds hwy
  obtain ⟨t, ht, htd⟩ := cmag_completes hm hpath hwf hvx hvy
  obtain ⟨u₁, h₁, h₁x⟩ := sqr_completes (dst := x) hm (inPlace hx hfitx) hvx
  have h₁y : Holds (u₁.realBuf y) len vy := by rw [h₁.real_ne hxy.symm]; exact hvy
  obtain ⟨u₂, h₂, h₂y⟩ := sqr_completes (dst := y) h₁.wf (inPlace hy (h₁.params ▸ hfity)) h₁y
  have h₂x := h₁x
  rw [← h₂.real_ne hxy] at h₂x
  have hp₂ : u₂.params = s.params := h₂.params.trans h₁.params
  obtain ⟨u₃, h₃, h₃d⟩ := add_completes (dst := d) h₂.wf (hp₂ ▸ hwf) h₂x h₂y
  have hp₃ : u₃.params = s.params := h₃.params.trans hp₂
  obtain ⟨u₄, h₄, h₄d⟩ := sqrt_completes (dst := d) h₃.wf (inPlace hd (hp₃ ▸ hfitd)) h₃d
  refine ⟨t, u₁, u₂, u₃, u₄, ht.exec, h₁.exec, h₂.exec, h₃.exec, h₄.exec,
    fun i hi => ⟨_, _, htd i hi, h₄d i hi, ?_⟩⟩
  have drawn (c i k : Nat) := isNaN_freshNaN c i k
  exact .fsqrt (drawn _ _ _) (drawn _ _ _) (.fadd (drawn _ _ _) (drawn _ _ _)
    (sameUpToNaN_fmul (drawn _ _ _) (drawn _ _ _) _ _) (sameUpToNaN_fmul (drawn _ _ _) (drawn _ _ _) _ _))

/-! ### The lanes one at a time (R122) -/

theorem setReal_setReal (s : State) (b : BufId) (c c' : Buffer F32) :
    (s.setReal b c).setReal b c' = s.setReal b c' := by
  cases b <;> rfl

/-- The cells of `order` set one after the other, cell `i` to `v i`. -/
def setCells (v : Nat → F32) (order : List Nat) (b : Buffer F32) : Buffer F32 :=
  order.foldl (fun b i => setCell b i (v i)) b

@[simp] theorem length_setCells (v : Nat → F32) (order : List Nat) (b : Buffer F32) :
    (setCells v order b).length = b.length := by
  induction order generalizing b with
  | nil => rfl
  | cons i order ih => exact (ih _).trans (length_setCell b i (v i))

/-- The order of the writes does not show. -/
theorem cellAt_setCells (v : Nat → F32) {order : List Nat} {b : Buffer F32} {j : Nat} (hj : j < b.length) :
    cellAt (setCells v order b) j = if j ∈ order then some (v j) else cellAt b j := by
  induction order generalizing b with
  | nil => rfl
  | cons i order ih =>
    refine (ih (b := setCell b i (v i)) (by simpa using hj)).trans ?_
    rcases eq_or_ne j i with rfl | hne
    · simp [cellAt_setCell_self b j (v j) hj]
    · simp [cellAt_setCell_ne b i j (v i) hne, hne]

theorem eq_of_cellAt {b c : Buffer F32} (hlen : b.length = c.length)
    (h : ∀ j < b.length, cellAt b j = cellAt c j) : b = c :=
  List.ext_getElem hlen fun j hb hc => by
    simpa [cellAt, List.getD_eq_getElem?_getD, hb, hc] using h j hb

/-- A lane writes its own cell of the destination alone, which no other lane reads. -/
theorem foldlM_oneLane {dst sa sb : BufId} (hdst : dst.isReal = true) (f : Nat → F32 → F32 → F32) (x y : Nat → F32)
    {order : List Nat} (hnodup : order.Nodup) (s : State) (hx : ∀ i ∈ order, cellAt (s.realBuf sa) i = some (x i))
    (hy : ∀ i ∈ order, cellAt (s.realBuf sb) i = some (y i)) :
    order.foldlM (oneLane dst sa sb f) s =
      some (s.setReal dst (setCells (fun i => f i (x i) (y i)) order (s.realBuf dst))) := by
  induction order generalizing s with
  | nil =>
    cases dst <;> rfl
  | cons i order ih =>
    obtain ⟨hi, hrest⟩ := List.nodup_cons.mp hnodup
    have hlane : oneLane dst sa sb f s i = some (s.setReal dst (setCell (s.realBuf dst) i (f i (x i) (y i)))) := by
      simp only [oneLane, hx i (by simp), hy i (by simp)]
    have untouched {b : BufId} {j : Nat} (hj : j ∈ order) (c : F32) :
        cellAt ((s.setReal dst (setCell (s.realBuf dst) i c)).realBuf b) j = cellAt (s.realBuf b) j := by
      have hji : j ≠ i := fun h => hi (h ▸ hj)
      rcases eq_or_ne b dst with rfl | hb
      · rw [State.realBuf_setReal_self _ _ _ hdst, cellAt_setCell_ne _ _ _ _ hji]
      · rw [State.realBuf_setReal_ne _ _ _ _ hb]
    rw [List.foldlM_cons, hlane]
    refine (ih hrest _ (fun j hj => ?_) (fun j hj => ?_)).trans ?_
    · rw [untouched hj, hx j (by simp [hj])]
    · rw [untouched hj, hy j (by simp [hj])]
    · rw [setReal_setReal, State.realBuf_setReal_self _ _ _ hdst]
      rfl

/-- Settles O46: both ways leave the same cells in the destination. -/
theorem lanesInAnyOrder : Obligations.LanesInAnyOrder := by
  intro s dst sa sb len f order hm hd hfit ha hb hperm
  have hdst := isReal_of_isRealW hd
  have hmem {i : Nat} : i ∈ order ↔ i < len := by rw [hperm.mem_iff, List.mem_range]
  obtain ⟨x, hx⟩ := exists_holds ha
  obtain ⟨y, hy⟩ := exists_holds hb
  obtain ⟨t, hbinary, hframe, -, hlanes⟩ := binary_spec hm f hdst hfit ha hb
  obtain ⟨vs, rfl⟩ := binary_next hbinary
  have hwritten : (s.storeReal dst vs).realBuf dst = writeLanes vs (s.realBuf dst) := by
    simp [State.storeReal, State.realBuf_setReal_self _ _ _ hdst]
  have hsame : writeLanes vs (s.realBuf dst) = setCells (fun i => f i (x i) (y i)) order (s.realBuf dst) := by
    refine eq_of_cellAt (by simp) fun j hj => ?_
    rw [cellAt_setCells _ (by simpa using hj), ← hwritten]
    split
    next h => exact hlanes j (hmem.mp h) _ _ (hx j (hmem.mp h)) (hy j (hmem.mp h))
    next h => exact hframe.beyondReal j (not_lt.mp (mt hmem.mpr h))
  refine ⟨_, foldlM_oneLane hdst f x y (hperm.nodup_iff.mpr List.nodup_range) s (fun i hi => hx i (hmem.mp hi))
    (fun i hi => hy i (hmem.mp hi)), ?_⟩
  rw [hbinary, State.storeReal, hsame]

end Sys2Proof.Machine
end

section
/-!
Runs of the sequencer (44_pipeline_fsm.md R181 to R185): what a legal micro-op does to `upc` and to the command in
progress, that every command ends, and the edges of the sequencer's state machine under the normative program.
-/

namespace Sys2Proof.Machine

variable {s t : State} {i : Instr} {dst : BufId} {len k : Nat}

/-! ### Micro-ops that complete -/

/-- The micro-op at `upc` has completed: the next index, and the control part as before (R28, R137). -/
structure Advances (s t : State) : Prop where
  control : ControlSame s t
  upc : t.upc = s.upc + 1

theorem KernelFrame.advances (h : KernelFrame s t dst len) : Advances s t := ⟨h.control, h.upc⟩

theorem advances_storeReal (dst : BufId) (vs : List F32) : Advances s (s.storeReal dst vs) :=
  ⟨control_storeReal dst vs, by simp [State.storeReal]⟩

theorem advances_storeCplx (dst : BufId) (vs : List C32) : Advances s (s.storeCplx dst vs) :=
  ⟨control_storeCplx dst vs, by simp [State.storeCplx]⟩

/-- The engine's answer `ok` lets the FFT complete, `error` ends the command (R154, R155). -/
theorem forwardAnswer_cases (s : State) (q : Option EngineRequest) (ok : Bool) (y : Nat → C32) :
    Advances s (({ s with port := q } : State).forwardAnswer ok y) ∨
      ∃ u : State, ({ s with port := q } : State).forwardAnswer ok y = u ∧ u.busy = false ∧ u.cmdL = none ∧
        u.err = .transformFailure := by
  cases ok with
  | true =>
    have hframe := frame_storeCplx (s := { s with port := q }) (dst := .fout) rfl ((List.range s.params.n).map y)
    exact .inl (KernelFrame.of_port hframe).advances
  | false => exact .inr ⟨_, rfl, rfl, rfl, rfl⟩

/-- A micro-op that answers a next state completes or ends the command. -/
theorem MicroOpEffect.advances_or_ends (h : MicroOpEffect s t) : Advances s t ∨ t.busy = false := by
  cases h with
  | faulted | ended => exact .inr rfl
  | storedReal dst vs => exact .inl (advances_storeReal dst vs)
  | storedCplx dst vs => exact .inl (advances_storeCplx dst vs)
  | answered c x ok y =>
    exact (forwardAnswer_cases s _ ok y).imp_right fun ⟨_, hu, hbusy, _⟩ => hu ▸ hbusy

/-- A legal micro-op that answers a next state completes, unless it is DONE or the engine fails an FFT. -/
theorem exec_legal_cases (hi : i.isMicroOp = true) (hl : legalityFault s.params i = none) (h : exec i s = .next t) :
    Advances s t ∨ (i = .done ∧ t = s.succeed) ∨
      ((∃ d a n, i = .fft d a n) ∧ t.cmdL = none ∧ t.err = .transformFailure) := by
  have real {i : Instr} {dst : BufId} {body : Result} (hl : legalityFault s.params i = none)
      (hb : body = .next t → ∃ vs, t = s.storeReal dst vs) (h : s.checked i body = .next t) : Advances s t := by
    obtain ⟨vs, rfl⟩ := hb ((checked_legal hl body).symm.trans h)
    exact advances_storeReal dst vs
  cases i with
  | done => exact .inr (.inl ⟨rfl, (Host.Outcome.next.inj h).symm⟩)
  | copy | sqrt | sqr | logc => exact .inl (real hl unary_next h)
  | add | mul | cmag | winmul | pnorm => exact .inl (real hl binary_next h)
  | real | imag => exact .inl (real hl fromComplex_next h)
  | pack d a n =>
    obtain ⟨vs, rfl⟩ := toComplex_next ((checked_legal hl _).symm.trans h)
    exact .inl (advances_storeCplx d vs)
  | fft d a n =>
    obtain ⟨x, -, hx⟩ := withLanes_next ((checked_legal hl _).symm.trans h)
    split at hx
    next => cases hx
    next c hc =>
      cases hx
      rcases forwardAnswer_cases s (some (.forward c x)) (Config.fftForwardOk s.draws) (Config.fftValue c x) with
        hadv | ⟨u, rfl, -, hcmd, herr⟩
      · exact .inl hadv
      · exact .inr (.inr ⟨⟨d, a, n, rfl⟩, hcmd, herr⟩)
  | construct | transform | destroy => cases hi

/-! ### What stops a micro-op -/

/-- The result is a next state or the fault of an unwritten read. -/
def Answers (r : Result) : Prop := (∃ t, r = .next t) ∨ ∃ b, r = .fault (.unwrittenRead b)

theorem answers_next (t : State) : Answers (.next t) := .inl ⟨t, rfl⟩

theorem answers_checked (i : Instr) {body : Result} (h : Answers body) : Answers (s.checked i body) := by
  rcases checked_cases (s := s) i body with ⟨e, -, he⟩ | ⟨-, he⟩ <;> rw [he]
  · exact answers_next _
  · exact h

theorem answers_withLanes {α : Type} (src : Buffer α) (b : BufId) (len : Nat) {body : List α → Result}
    (h : ∀ xs, Answers (body xs)) : Answers (State.withLanes src b len body) := by
  rw [State.withLanes]
  split
  · exact .inr ⟨b, rfl⟩
  · exact h _

/-- With a context nothing but an unwritten read stops a micro-op. -/
theorem answers_exec (hi : i.isMicroOp = true) (hctx : s.ctx ≠ none) : Answers (exec i s) := by
  cases i with
  | done => exact answers_next _
  | copy | sqrt | sqr | logc | pack | real | imag =>
    exact answers_checked _ (answers_withLanes _ _ _ fun _ => answers_next _)
  | add | mul | cmag | winmul | pnorm =>
    exact answers_checked _ (answers_withLanes _ _ _ fun _ => answers_withLanes _ _ _ fun _ => answers_next _)
  | fft =>
    obtain ⟨c, hc⟩ := Option.ne_none_iff_exists'.mp hctx
    refine answers_checked _ (answers_withLanes _ _ _ fun _ => ?_)
    rw [hc]
    exact answers_next _
  | construct | transform | destroy => cases hi

/-! ### Runs -/

theorem step_of_agenda_nil (h : s.agenda = []) : step s = seqStep s := by
  rw [step, h]

theorem runSteps_succ (h : step s = .next t) (k : Nat) : runSteps (k + 1) s = runSteps k t := by
  simp only [runSteps, Host.Core.run, h]

/-- `k` steps come to the end of the command or to an unwritten read. -/
def EndsAfter (k : Nat) (s : State) : Prop :=
  (∃ t, runSteps k s = .next t ∧ t.busy = false) ∨ ∃ b, runSteps k s = .fault (.unwrittenRead b)

theorem EndsAfter.of_step (h : step s = .next t) (ht : EndsAfter k t) : EndsAfter (k + 1) s := by
  rwa [EndsAfter, runSteps_succ h]

theorem endsAfter_one (h : step s = .next t) (hbusy : t.busy = false) : EndsAfter 1 s :=
  .of_step h (.inl ⟨t, rfl, hbusy⟩)

theorem endsAfter_one_of_fault {b : BufId} (h : step s = .fault (.unwrittenRead b)) : EndsAfter 1 s :=
  .inr ⟨b, by simp only [runSteps, Host.Core.run, h]⟩

/-- A TRANSFORM ends within one step for each word left and one for the fetch behind them. -/
theorem transform_endsAfter (m : Nat) (hinv : s.Inv) (hcmd : s.cmdL = some .transform) (hagenda : s.agenda = [])
    (hm : s.params.ulen ≤ s.upc + m) : ∃ k ≤ m + 1, EndsAfter k s := by
  have hstep : step s = microStep s := (step_of_agenda_nil hagenda).trans (seqStep_of_transform hcmd)
  induction m generalizing s with
  | zero =>
    exact ⟨1, le_rfl, endsAfter_one (hstep.trans (microStep_of_fetch_none hm)) rfl⟩
  | succ m ih =>
    rcases microStep_cases s with hfault | ⟨w, i, -, hdecode, hexec⟩
    · exact ⟨1, by omega, endsAfter_one (hstep.trans hfault) rfl⟩
    have hi := isMicroOp_of_decodeMicroOp hdecode
    have hctx : s.ctx ≠ none := hinv.ctx.mp (hinv.transform hcmd)
    rcases answers_exec hi hctx with ⟨t, ht⟩ | ⟨b, hb⟩
    · have hnext : step s = .next t := hstep.trans (hexec.trans ht)
      rcases (exec_microOp_effect hi ht).advances_or_ends with hadv | hbusy
      · have hagenda' : t.agenda = [] := hadv.control.agenda.trans hagenda
        have hcmd' : t.cmdL = some .transform := hadv.control.cmdL.trans hcmd
        obtain ⟨k, hk, hends⟩ := ih (everyStepKeepsTheInvariant s t hinv hnext) hcmd' hagenda'
          (by rw [hadv.control.params, hadv.upc]; omega)
          ((step_of_agenda_nil hagenda').trans (seqStep_of_transform hcmd'))
        exact ⟨k + 1, by omega, .of_step hnext hends⟩
      · exact ⟨1, by omega, endsAfter_one hnext hbusy⟩
    · exact ⟨1, by omega, endsAfter_one_of_fault (hstep.trans (hexec.trans hb))⟩

theorem completeConstruct_ends (s : State) (ok : Bool) (answer : Option Ctx) :
    (s.completeConstruct ok answer).busy = false ∧ (s.completeConstruct ok answer).cmdL = none := by
  rw [completeConstruct_eq_elim]
  cases (if ok then answer else none) <;> exact ⟨rfl, rfl⟩

/-- Settles O59: CONSTRUCT and DESTROY end in their completion step, a TRANSFORM by running out of its program. -/
theorem commandsEndInBoundedSteps : Obligations.CommandsEndInBoundedSteps := by
  intro s hinv hbusy hagenda
  obtain ⟨c, hc⟩ := Option.ne_none_iff_exists'.mp (hinv.busy.mp hbusy)
  have hstep := step_of_agenda_nil hagenda
  cases c with
  | transform => exact transform_endsAfter s.params.ulen hinv hc hagenda (by omega)
  | construct =>
    have hnext := hstep.trans ((seqStep_of_construct hc).trans (exec_construct_of_inProgress hc))
    exact ⟨1, by omega, endsAfter_one hnext (completeConstruct_ends s _ _).1⟩
  | destroy =>
    exact ⟨1, by omega, endsAfter_one (hstep.trans ((seqStep_of_destroy hc).trans (exec_destroy_completes hc))) rfl⟩

/-! ### The normative program (R183, R184) -/

/-- With the normative program the sequencer executes the program's micro-op at `upc`. -/
theorem microStep_of_normative (hp : s.params.wf) (hu : s.params.urom = normativeUrom s.params.n)
    (hi : (normativeProgram s.params.n)[s.upc]? = some i) : microStep s = exec i s := by
  have hword : fetch s = some (encode i) := by rw [fetch, hu, normativeUrom, List.getElem?_map, hi, Option.map_some]
  have hdecode := decode_of_normative hp.2.2.1 i (List.mem_of_getElem? hi)
  simp only [microStep, hword, hdecode]

/-- The normative program has DONE at its last index and its one FFT at index 3. -/
theorem normative_index {n : Nat} (hi : (normativeProgram n)[k]? = some i) :
    k < 10 ∧ (i = .done ↔ k = 9) ∧ ((∃ d a m, i = .fft d a m) → k = 3) := by
  have hk : k < 10 := (List.getElem?_eq_some_iff.mp hi).1
  refine ⟨hk, ?_⟩
  interval_cases k <;> cases hi <;> simp

/-- One micro-step of the normative program: it completes, or it is DONE, or the FFT that the engine failed. -/
theorem normative_microStep (hp : s.params.wf) (hu : s.params.urom = normativeUrom s.params.n) (hupc : s.upc < 10)
    (h : microStep s = .next t) :
    (s.upc < 9 ∧ Advances s t) ∨ (s.upc = 9 ∧ t = s.succeed) ∨
      (s.upc = 3 ∧ t.cmdL = none ∧ t.err = .transformFailure) := by
  have hget : (normativeProgram s.params.n)[s.upc]? = some ((normativeProgram s.params.n)[s.upc]'hupc) :=
    List.getElem?_eq_getElem _
  obtain ⟨-, hdone, hfft⟩ := normative_index hget
  have hmem := List.mem_of_getElem? hget
  have hmicro := isMicroOp_of_decodeMicroOp (decode_of_normative hp.2.2.1 _ hmem)
  rw [microStep_of_normative hp hu hget] at h
  rcases exec_legal_cases hmicro (legal_of_normative hp.2.1 _ hmem) h with hadv | ⟨hi, ht⟩ | ⟨hi, hcmd, herr⟩
  · rcases (Nat.lt_succ_iff.mp hupc).lt_or_eq with hlt | heq
    · exact .inl ⟨hlt, hadv⟩
    · rw [hdone.mpr heq] at h
      exact .inr (.inl ⟨heq, (Host.Outcome.next.inj h).symm⟩)
  · exact .inr (.inl ⟨hdone.mp hi, ht⟩)
  · exact .inr (.inr ⟨hfft hi, hcmd, herr⟩)

/-- The sequencer's state at each index, while a TRANSFORM is in progress (R184). -/
def stageAt : Nat → Option FsmState
  | 0 => some .sLoad
  | 1 => some .sWindow
  | 2 => some .sPack
  | 3 => some .sFft
  | 4 | 5 | 6 | 7 => some .sMagpow
  | 8 => some .sLog
  | 9 => some .sDone
  | _ => none

theorem fsm_of_transform (h : s.cmdL = some .transform) : s.fsm = stageAt s.upc := by
  rw [State.fsm, h]
  rfl

theorem fsm_of_none (h : s.cmdL = none) : s.fsm = some .idle := by
  rw [State.fsm, h]

theorem stageAt_eq_none {u : Nat} (h : 10 ≤ u) : stageAt u = none := by
  obtain ⟨v, rfl⟩ := Nat.exists_eq_add_of_le' h
  rfl

/-- Settles O57: the command in progress and, in a TRANSFORM, the index decide which clause speaks. -/
theorem sequencerFollowsItsStateMachine : Obligations.SequencerFollowsItsStateMachine := by
  intro s t hinv hurom hturn hstep
  rw [step_of_sequencersTurn hturn] at hstep
  cases hc : s.cmdL with
  | none =>
    cases (seqStep_of_idle (s := s.takeTurn) hc).symm.trans hstep
    have ht : s.takeTurn.fsm = some .idle := fsm_of_none (s := s.takeTurn) hc
    rw [fsm_of_none hc, ht]
    simp
  | some c =>
    cases c with
    | construct =>
      have hs : s.fsm = some .sConstruct := by rw [State.fsm, hc]
      have hnext := (seqStep_of_construct (s := s.takeTurn) hc).trans (exec_construct_of_inProgress hc)
      cases hnext.symm.trans hstep
      rw [hs, fsm_of_none (completeConstruct_ends _ _ _).2]
      simp
    | destroy =>
      have hs : s.fsm = some .sDestroy := by rw [State.fsm, hc]
      cases ((seqStep_of_destroy (s := s.takeTurn) hc).trans (exec_destroy_completes hc)).symm.trans hstep
      rw [hs, fsm_of_none (s := s.takeTurn.completeDestroy) rfl]
      simp
    | transform =>
      rw [seqStep_of_transform (s := s.takeTurn) hc] at hstep
      rw [fsm_of_transform hc]
      rcases lt_or_ge s.upc 10 with hupc | hupc
      · rcases normative_microStep (s := s.takeTurn) hinv.params hurom hupc hstep with
          ⟨hlt, hadv⟩ | ⟨heq, rfl⟩ | ⟨heq, hcmd, herr⟩
        · have hlt : s.upc < 9 := hlt
          have ht : t.upc = s.upc + 1 := hadv.upc
          rw [fsm_of_transform (hadv.control.cmdL.trans hc), ht]
          interval_cases s.upc <;> simp [stageAt]
        · have heq : s.upc = 9 := heq
          rw [heq, fsm_of_none rfl]
          simp [stageAt]
        · have heq : s.upc = 3 := heq
          rw [heq, fsm_of_none hcmd]
          simp [stageAt, herr]
      · simp [stageAt_eq_none hupc]

end Sys2Proof.Machine
end

section
/-!
What stands outside the core (20_memory.md R75, 70_reset_and_hazards.md R256): no sequencer step reads or writes the
turns to come or the last bus answer, so a host that only loads `STATUS` does not disturb a command.
-/

namespace Sys2Proof.Machine

variable {s t : State}

/-- The state with other turns to come and another last bus answer. -/
def State.withOutside (ts : List Turn) (r : Option Reply) (s : State) : State := { s with agenda := ts, reply := r }

/-- The result with its next state, if it is one, changed. -/
def mapNext (f : State → State) : Result → Result
  | .next t => .next (f t)
  | .fault e => .fault e
  | .refused e => .refused e

variable {ts : List Turn} {r : Option Reply}

/-! ### The sequencer's step does not see the outside -/

theorem realBuf_withOutside (b : BufId) : (s.withOutside ts r).realBuf b = s.realBuf b := by cases b <;> rfl

theorem cplxBuf_withOutside (b : BufId) : (s.withOutside ts r).cplxBuf b = s.cplxBuf b := by cases b <;> rfl

theorem storeReal_withOutside (dst : BufId) (vs : List F32) :
    (s.withOutside ts r).storeReal dst vs = (s.storeReal dst vs).withOutside ts r := by
  cases dst <;> rfl

theorem storeCplx_withOutside (dst : BufId) (vs : List C32) :
    (s.withOutside ts r).storeCplx dst vs = (s.storeCplx dst vs).withOutside ts r := by
  cases dst <;> rfl

theorem withLanes_mapNext {α : Type} (f : State → State) (src : Buffer α) (b : BufId) (len : Nat)
    (body : List α → Result) :
    State.withLanes src b len (fun xs => mapNext f (body xs)) = mapNext f (State.withLanes src b len body) := by
  rw [State.withLanes, State.withLanes]
  cases readLanes src len <;> rfl

theorem checked_withOutside (i : Instr) (body : Result) :
    (s.withOutside ts r).checked i (mapNext (State.withOutside ts r) body) =
      mapNext (State.withOutside ts r) (s.checked i body) := by
  rw [State.checked, State.checked]
  have hparams : (s.withOutside ts r).params = s.params := rfl
  rw [hparams]
  cases legalityFault s.params i <;> rfl

theorem unary_withOutside (dst sa : BufId) (len : Nat) (f : Nat → F32 → F32) :
    (s.withOutside ts r).unary dst sa len f = mapNext (State.withOutside ts r) (s.unary dst sa len f) := by
  rw [State.unary, State.unary, realBuf_withOutside, ← withLanes_mapNext]
  simp only [storeReal_withOutside, mapNext]

theorem binary_withOutside (dst sa sb : BufId) (len : Nat) (f : Nat → F32 → F32 → F32) :
    (s.withOutside ts r).binary dst sa sb len f = mapNext (State.withOutside ts r) (s.binary dst sa sb len f) := by
  rw [State.binary, State.binary, realBuf_withOutside, realBuf_withOutside, ← withLanes_mapNext]
  refine congrArg (State.withLanes (s.realBuf sa) sa len) (funext fun xs => ?_)
  rw [← withLanes_mapNext]
  simp only [storeReal_withOutside, mapNext]

theorem toComplex_withOutside (dst sa : BufId) (len : Nat) (f : F32 → C32) :
    (s.withOutside ts r).toComplex dst sa len f = mapNext (State.withOutside ts r) (s.toComplex dst sa len f) := by
  rw [State.toComplex, State.toComplex, realBuf_withOutside, ← withLanes_mapNext]
  simp only [storeCplx_withOutside, mapNext]

theorem fromComplex_withOutside (dst sa : BufId) (len : Nat) (f : C32 → F32) :
    (s.withOutside ts r).fromComplex dst sa len f = mapNext (State.withOutside ts r) (s.fromComplex dst sa len f) := by
  rw [State.fromComplex, State.fromComplex, cplxBuf_withOutside, ← withLanes_mapNext]
  simp only [storeReal_withOutside, mapNext]

/-- A checked micro-op whose body does not see the outside does not see it. -/
theorem exec_withOutside_of_body {i : Instr} {body body' : Result} (hexec : exec i s = s.checked i body)
    (hexec' : exec i (s.withOutside ts r) = (s.withOutside ts r).checked i body')
    (hbody : body' = mapNext (State.withOutside ts r) body) :
    exec i (s.withOutside ts r) = mapNext (State.withOutside ts r) (exec i s) := by
  rw [hexec, hexec', hbody, checked_withOutside]

theorem exec_microOp_withOutside {i : Instr} (hi : i.isMicroOp = true) :
    exec i (s.withOutside ts r) = mapNext (State.withOutside ts r) (exec i s) := by
  cases i with
  | done => rfl
  | copy | sqrt | sqr | logc => exact exec_withOutside_of_body rfl rfl (unary_withOutside _ _ _ _)
  | add | mul | cmag | winmul | pnorm => exact exec_withOutside_of_body rfl rfl (binary_withOutside _ _ _ _ _)
  | pack => exact exec_withOutside_of_body rfl rfl (toComplex_withOutside _ _ _ _)
  | real | imag => exact exec_withOutside_of_body rfl rfl (fromComplex_withOutside _ _ _ _)
  | fft =>
    refine exec_withOutside_of_body rfl rfl ?_
    rw [← withLanes_mapNext]
    refine congrArg (State.withLanes s.fin .fin s.params.n) (funext fun x => ?_)
    have hctx : (s.withOutside ts r).ctx = s.ctx := rfl
    have hdraws : (s.withOutside ts r).draws = s.draws := rfl
    rw [hctx, hdraws]
    cases s.ctx with
    | none => rfl
    | some c => cases Config.fftForwardOk s.draws <;> rfl
  | construct | transform | destroy => cases hi

theorem microStep_withOutside :
    microStep (s.withOutside ts r) = mapNext (State.withOutside ts r) (microStep s) := by
  have hfetch : fetch (s.withOutside ts r) = fetch s := rfl
  rw [microStep, microStep, hfetch]
  cases fetch s with
  | none => rfl
  | some w =>
    cases hdecode : decodeMicroOp w with
    | error d => simp only [hdecode]; rfl
    | ok i => simp only [hdecode, exec_microOp_withOutside (isMicroOp_of_decodeMicroOp hdecode)]

theorem completeConstruct_withOutside (ok : Bool) (answer : Option Ctx) :
    (s.withOutside ts r).completeConstruct ok answer = (s.completeConstruct ok answer).withOutside ts r := by
  cases ok with
  | false => rfl
  | true => cases answer <;> rfl

theorem completeDestroy_withOutside :
    (s.withOutside ts r).completeDestroy = s.completeDestroy.withOutside ts r := by
  have hctx : (s.withOutside ts r).ctx = s.ctx := rfl
  rw [State.completeDestroy, State.completeDestroy, hctx]
  cases s.ctx <;> rfl

/-- A sequencer step commutes with any change outside. -/
theorem seqStep_withOutside : seqStep (s.withOutside ts r) = mapNext (State.withOutside ts r) (seqStep s) := by
  cases hc : s.cmdL with
  | none => rw [seqStep_of_idle hc, seqStep_of_idle (s := s.withOutside ts r) hc]; rfl
  | some c =>
    cases c with
    | transform =>
      rw [seqStep_of_transform hc, seqStep_of_transform (s := s.withOutside ts r) hc, microStep_withOutside]
    | construct =>
      rw [seqStep_of_construct hc, seqStep_of_construct (s := s.withOutside ts r) hc,
        exec_construct_of_inProgress hc, exec_construct_of_inProgress (s := s.withOutside ts r) hc,
        completeConstruct_withOutside]
      rfl
    | destroy =>
      rw [seqStep_of_destroy hc, seqStep_of_destroy (s := s.withOutside ts r) hc, exec_destroy_completes hc,
        exec_destroy_completes (s := s.withOutside ts r) hc, completeDestroy_withOutside]
      rfl

/-! ### Runs with and without the host -/

/-- A load of `STATUS` answers its word and nothing else. -/
theorem hostAccess_ldStatus (s : State) :
    hostAccess (ldStatus s.params) s = .next (s.answer (.data s.statusWord)) :=
  hostAccess_load_of_locAtOffset (loc := .status) (by decide) rfl rfl

theorem step_withOutside_sequencer :
    step (s.withOutside (.sequencer :: ts) r) = mapNext (State.withOutside ts r) (seqStep s) :=
  (seqStep_withOutside (ts := ts) : seqStep (s.withOutside ts r) = _)

theorem step_withOutside_nil : step (s.withOutside [] r) = mapNext (State.withOutside [] r) (seqStep s) :=
  (seqStep_withOutside (ts := []) : seqStep (s.withOutside [] r) = _)

theorem step_withOutside_ldStatus :
    step (s.withOutside (.host (ldStatus s.params) :: ts) r) =
      .next (s.withOutside ts (some (.data s.statusWord))) :=
  hostAccess_ldStatus (s.withOutside ts r)

/-- By induction on the turns: a sequencer's turn is a step of both runs, a load changes the last bus answer alone. -/
theorem insideOf_runSteps_protocol (ts : List Turn) (s : State) (r r' : Option Reply)
    (hts : ∀ u ∈ ts, protocolTurn s.params u = true) :
    insideOf (runSteps ts.length (s.withOutside ts r)) =
      insideOf (runSteps (sequencerTurns ts) (s.withOutside [] r')) := by
  induction ts generalizing s r r' with
  | nil => rfl
  | cons u ts ih =>
    obtain ⟨hu, hrest⟩ := List.forall_mem_cons.mp hts
    cases u with
    | reset => cases hu
    | host a =>
      obtain rfl : a = ldStatus s.params := of_decide_eq_true hu
      rw [List.length_cons, runSteps_succ step_withOutside_ldStatus]
      exact ih s _ r' hrest
    | sequencer =>
      have hcount : sequencerTurns (.sequencer :: ts) = sequencerTurns ts + 1 := rfl
      have hloud := step_withOutside_sequencer (s := s) (ts := ts) (r := r)
      have hquiet := step_withOutside_nil (s := s) (r := r')
      rw [hcount, List.length_cons]
      cases hseq : seqStep s with
      | next t =>
        rw [hseq] at hloud hquiet
        rw [runSteps_succ hloud, runSteps_succ hquiet]
        obtain ⟨hparams, -⟩ := (seqStep_effect hseq).keeps
        exact ih t r r' (hparams.symm ▸ hrest)
      | fault e | refused e =>
        rw [hseq] at hloud hquiet
        simp only [runSteps, Host.Core.run, hloud, hquiet, mapNext, insideOf]

/-- Settles O60: the two runs start from states that differ outside the core alone. -/
theorem protocolHostDoesNotDisturb : Obligations.ProtocolHostDoesNotDisturb := fun s ts hts =>
  insideOf_runSteps_protocol ts s s.reply s.reply hts

end Sys2Proof.Machine
end

section
/-!
A whole TRANSFORM (44_pipeline_fsm.md R183 to R187): stage by stage of the normative program, what the buffers hold; the
engine's answer parts the run that completes from the one that fails (42_fft_port.md R154, R155).
-/

namespace Sys2Proof.Machine

variable {s t u : State} {i : Instr} {dst : BufId} {len k : Nat} {dsts : List BufId}

/-! ### FFT, by the values that it reads -/

section

variable {c : Ctx} {z : Nat → C32} {n : Nat} (hn : s.params.n = n) (hctx : s.ctx = some c) (hz : Holds s.fin n z)
include hn hctx hz

/-- The engine's answer to a full `FIN` is stored. -/
theorem fft_completes (hm : Memory.wf s) (hok : Config.fftForwardOk s.draws = true) :
    ∃ t, Completed (.fft .fout .fin n) s t .fout n ∧
      Holds t.fout n (Config.fftValue c ((List.range n).map z)) := by
  subst hn
  obtain ⟨t, hexec, -, hanswer⟩ := fftStoresTheAnswerOrFails s c ((List.range s.params.n).map z) hm hctx (by simp)
    fun i hi => by simp [hz i hi, hi]
  rw [if_pos hok] at hanswer
  exact ⟨t, completed_of_frame rfl hm hexec hanswer.1, hanswer.2⟩

/-- The engine's error is a `TransformFailure`. -/
theorem exec_fft_fails (hfail : Config.fftForwardOk s.draws = false) :
    exec (.fft .fout .fin n) s =
      .next (State.transformFailure { s with port := some (.forward c ((List.range n).map z)) }) := by
  subst hn
  have hread := readLanes_of_cells (b := s.fin) (xs := (List.range s.params.n).map z) fun i hi => by
    have hi : i < s.params.n := by simpa using hi
    simp [hz i hi, hi]
  rw [List.length_map, List.length_range] at hread
  rw [exec_fft_answered hctx hread, hfail]
  rfl

end

/-! ### Progress through the program -/

/-- The first micro-op of a TRANSFORM is next: the normative program on a core of `ROUNDTRIP`, with the host quiet. -/
structure Started (s : State) : Prop where
  inv : s.Inv
  urom : s.params.urom = normativeUrom s.params.n
  path : s.params.powerPath = .roundTrip
  cmdL : s.cmdL = some .transform
  agenda : s.agenda = []
  upc : s.upc = 0

/-- `k` micro-ops have completed since `s`. -/
structure Progress (s t : State) (k : Nat) : Prop where
  run : runSteps k s = .next t
  control : ControlSame s t
  upc : t.upc = k
  draws : t.draws = s.draws + k
  wf : Memory.wf t

/-- Buffers outside `dsts` are as before. -/
structure Kept (dsts : List BufId) (s t : State) : Prop where
  real : ∀ b ∉ dsts, t.realBuf b = s.realBuf b
  cplx : ∀ b ∉ dsts, t.cplxBuf b = s.cplxBuf b

theorem Kept.refl (s : State) : Kept [] s s := ⟨fun _ _ => rfl, fun _ _ => rfl⟩

theorem Kept.next (h : Kept dsts s t) (hi : Completed i t u dst len) : Kept (dst :: dsts) s u where
  real b hb := by
    obtain ⟨hne, hb⟩ := not_or.mp (mt List.mem_cons.mpr hb)
    exact (hi.frame.otherReal b hne).trans (h.real b hb)
  cplx b hb := by
    obtain ⟨hne, hb⟩ := not_or.mp (mt List.mem_cons.mpr hb)
    exact (hi.frame.otherCplx b hne).trans (h.cplx b hb)

theorem Kept.trans {dsts' : List BufId} (h : Kept dsts s t) (h' : Kept dsts' t u) : Kept (dsts' ++ dsts) s u where
  real b hb := by
    obtain ⟨hb', hb⟩ := not_or.mp (mt List.mem_append.mpr hb)
    exact (h'.real b hb').trans (h.real b hb)
  cplx b hb := by
    obtain ⟨hb', hb⟩ := not_or.mp (mt List.mem_append.mpr hb)
    exact (h'.cplx b hb').trans (h.cplx b hb)

theorem Kept.of_completed (h : Completed i s t dst len) : Kept [dst] s t := (Kept.refl s).next h

/-- Values stay in a real buffer that is not written. -/
theorem Kept.holds {b : BufId} {v : Nat → F32} (h : Kept dsts s t) (hb : b ∉ dsts) (hv : Holds (s.realBuf b) len v) :
    Holds (t.realBuf b) len v := by
  rwa [h.real b hb]

/-- Values stay in a complex buffer that is not written. -/
theorem Kept.holdsCplx {b : BufId} {v : Nat → C32} (h : Kept dsts s t) (hb : b ∉ dsts)
    (hv : Holds (s.cplxBuf b) len v) : Holds (t.cplxBuf b) len v := by
  rwa [h.cplx b hb]

theorem ControlSame.trans (h : ControlSame s t) (h' : ControlSame t u) : ControlSame s u where
  params := h'.params.trans h.params
  life := h'.life.trans h.life
  busy := h'.busy.trans h.busy
  done := h'.done.trans h.done
  ovr := h'.ovr.trans h.ovr
  err := h'.err.trans h.err
  logmode := h'.logmode.trans h.logmode
  logmodeL := h'.logmodeL.trans h.logmodeL
  cmdL := h'.cmdL.trans h.cmdL
  ctx := h'.ctx.trans h.ctx
  agenda := h'.agenda.trans h.agenda
  reply := h'.reply.trans h.reply

/-- One step more at the end of a run. -/
theorem runSteps_snoc (h : runSteps k s = .next t) (hstep : step t = .next u) : runSteps (k + 1) s = .next u := by
  induction k generalizing s with
  | zero =>
    cases h
    exact runSteps_succ hstep 0
  | succ k ih =>
    cases hs : step s with
    | next s' =>
      rw [runSteps_succ hs] at h ⊢
      exact ih h
    | fault e | refused e => simp [runSteps, Host.Core.run, hs] at h

section

variable (hs : Started s)
include hs

theorem Started.progress_zero : Progress s s 0 :=
  ⟨rfl, ⟨rfl, rfl, rfl, rfl, rfl, rfl, rfl, rfl, rfl, rfl, rfl, rfl⟩, hs.upc, rfl, hs.inv.memory⟩

/-- Every micro-op of the program is legal at its index. -/
theorem Started.legal (h : Progress s t k) (hi : (normativeProgram s.params.n)[k]? = some i) :
    i.wellFormed t.params = true := by
  rw [h.control.params]
  exact (legalityCheckAcceptsTheLegalForms _ _).mp (legal_of_normative hs.inv.params.2.1 i (List.mem_of_getElem? hi))

theorem Started.step (h : Progress s t k) (hi : (normativeProgram s.params.n)[k]? = some i)
    (hexec : exec i t = .next u) : step t = .next u := by
  have hparams := h.control.params
  rw [step_of_agenda_nil (h.control.agenda.trans hs.agenda), seqStep_of_transform (h.control.cmdL.trans hs.cmdL),
    microStep_of_normative (hparams ▸ hs.inv.params) (hparams ▸ hs.urom) (by rw [hparams, h.upc]; exact hi), hexec]

theorem Started.next (h : Progress s t k) (hi : (normativeProgram s.params.n)[k]? = some i)
    (hc : Completed i t u dst len) : Progress s u (k + 1) where
  run := runSteps_snoc h.run (hs.step h hi hc.exec)
  control := h.control.trans hc.frame.control
  upc := by rw [hc.frame.upc, h.upc]
  draws := by rw [hc.draws, h.draws, Nat.add_assoc]
  wf := hc.wf

end

/-! ### What the stages compute; `d` is the draw counter at the first micro-op -/

/-- LOAD and WINDOW: the windowed frame. -/
def windowLane (d : Nat) (hann : Nat → F32) (x : Nat → F32) (i : Nat) : F32 :=
  F32.fmul (freshNaN (d + 1) i 0) (x i) (hann i)

/-- PACK: the complex sequence. -/
def packLane (x : Nat → F32) (i : Nat) : C32 := { re := x i, im := 0 }

/-- CMAG: the magnitude. -/
def magnitudeLane (d : Nat) (y : Nat → C32) (k : Nat) : F32 :=
  F32.fsqrt (freshNaN (d + 6) k 3)
    (F32.fadd (freshNaN (d + 6) k 2) (F32.fmul (freshNaN (d + 6) k 0) (y k).re (y k).re)
      (F32.fmul (freshNaN (d + 6) k 1) (y k).im (y k).im))

/-- PNORM: the normalized power. -/
def powerLane (d n : Nat) (m : Nat → F32) (k : Nat) : F32 :=
  F32.fmul (freshNaN (d + 7) k 1) (F32.fmul (freshNaN (d + 7) k 0) (m k) (m k)) (pcoefVal n)

/-- LOG: the clamped logarithm in the latched mode. -/
def logLane (d : Nat) (mode : ClampNaN) (natural : Bool) (p : Nat → F32) (k : Nat) : F32 :=
  let pc := clampLane mode (p k)
  if natural = false then F32.fmul (freshNaN (d + 8) k 0) 0x41200000 (Config.log10f pc)
  else if (Config.lnf pc).isNaN then freshNaN (d + 8) k 0 else Config.lnf pc

/-- In `Ready` the constant buffers hold their tables (R26). -/
theorem holds_tables (h : TablesBuilt s) (hp : s.params.wf) :
    Holds s.hann s.params.n (fun i => s.params.hannTab.getD i 0) ∧
      Holds s.pcoef s.params.n fun _ => pcoefVal s.params.n := by
  obtain ⟨hhann, hpcoef⟩ := h
  obtain ⟨-, -, -, hlen, -⟩ := hp
  constructor
  · intro i hi
    have hi' : i < s.params.hannTab.length := hlen.symm ▸ hi
    simp [hhann, cellAt, List.getD_eq_getElem?_getD, hi']
  · intro i hi
    simp [hpcoef, cellAt, List.getD_eq_getElem?_getD, hi]

theorem Holds.mono {α : Type} {b : Buffer α} {v : Nat → α} {m : Nat} (h : Holds b len v) (hle : m ≤ len) :
    Holds b m v := fun i hi => h i (hi.trans_le hle)

/-- LOAD, WINDOW and PACK. -/
theorem Started.frame_stages (hs : Started s) {x : Nat → F32} (hx : Holds s.inp s.params.n x) :
    ∃ t, Progress s t 3 ∧ Kept [.fin, .work, .work] s t ∧
      Holds t.work s.params.n (windowLane s.draws (fun i => s.params.hannTab.getD i 0) x) ∧
      Holds t.fin s.params.n (packLane (windowLane s.draws (fun i => s.params.hannTab.getD i 0) x)) := by
  have hhann := (holds_tables (hs.inv.tables (hs.inv.transform hs.cmdL)) hs.inv.params).1
  have hp₀ := hs.progress_zero
  obtain ⟨s₁, h₁, hwork₁⟩ := copy_completes hp₀.wf (hs.legal hp₀ rfl) hx
  have hp₁ := hs.next hp₀ rfl h₁
  have hk₁ := Kept.of_completed h₁
  obtain ⟨s₂, h₂, hwork₂⟩ :=
    winmul_completes hp₁.wf (hs.legal hp₁ rfl) hwork₁ (hk₁.holds (b := .hann) (by decide) hhann)
  have hp₂ := hs.next hp₁ rfl h₂
  rw [hp₁.draws] at hwork₂
  obtain ⟨s₃, h₃, hfin₃⟩ := pack_completes hp₂.wf (hs.legal hp₂ rfl) hwork₂
  exact ⟨s₃, hs.next hp₂ rfl h₃, (hk₁.next h₂).next h₃, (Kept.of_completed h₃).holds (by decide) hwork₂, hfin₃⟩

/-- REAL, IMAG, magnitude, power and logarithm of what `FOUT` holds. -/
theorem Started.spectrum_stages (hs : Started s) {y : Nat → C32} (h : Progress s t 4)
    (hpcoef : t.pcoef = s.pcoef) (hy : Holds t.fout s.params.n y) :
    let nb := s.params.n / 2 + 1
    let power := powerLane s.draws s.params.n (magnitudeLane s.draws y)
    ∃ u, Progress s u 9 ∧ Kept [.out, .acc, .acc, .im, .re] t u ∧
      Holds u.re nb (fun k => (y k).re) ∧ Holds u.im nb (fun k => (y k).im) ∧ Holds u.acc nb power ∧
      Holds u.out nb (logLane s.draws s.params.clampNaN s.logmodeL power) := by
  intro nb power
  have hnb : nb ≤ s.params.n := by
    obtain ⟨-, hn, -⟩ := hs.inv.params
    omega
  have hbins := hy.mono hnb
  have hcoef : Holds t.pcoef nb fun _ => pcoefVal s.params.n := by
    rw [hpcoef]
    exact (holds_tables (hs.inv.tables (hs.inv.transform hs.cmdL)) hs.inv.params).2.mono hnb
  have path {v : State} {j : Nat} (hv : Progress s v j) : v.params.powerPath = .roundTrip := by
    rw [hv.control.params, hs.path]
  obtain ⟨s₅, h₅, hre⟩ := real_completes h.wf (hs.legal h rfl) hbins
  have hp₅ := hs.next h rfl h₅
  have hk₅ := Kept.of_completed h₅
  obtain ⟨s₆, h₆, him⟩ := imag_completes hp₅.wf (hs.legal hp₅ rfl) (hk₅.holdsCplx (b := .fout) (by decide) hbins)
  have hp₆ := hs.next hp₅ rfl h₆
  have hre₆ := (Kept.of_completed h₆).holds (by decide) hre
  obtain ⟨s₇, h₇, hmag⟩ := cmag_completes hp₆.wf (path hp₆) (hs.legal hp₆ rfl) hre₆ him
  have hp₇ := hs.next hp₆ rfl h₇
  have hk₇ := (hk₅.next h₆).next h₇
  rw [hp₆.draws] at hmag
  obtain ⟨s₈, h₈, hpow⟩ :=
    pnorm_completes hp₇.wf (path hp₇) (hs.legal hp₇ rfl) hmag (hk₇.holds (b := .pcoef) (by decide) hcoef)
  have hp₈ := hs.next hp₇ rfl h₈
  rw [hp₇.draws] at hpow
  obtain ⟨s₉, h₉, hlog⟩ := logc_completes hp₈.wf (hs.legal hp₈ rfl) hpow
  rw [hp₈.draws, hp₈.control.params, hp₈.control.logmodeL] at hlog
  have hk₉ := ((Kept.of_completed h₇).next h₈).next h₉
  exact ⟨s₉, hs.next hp₈ rfl h₉, (hk₇.next h₈).next h₉, hk₉.holds (b := .re) (by decide) hre₆,
    hk₉.holds (b := .im) (by decide) him, (Kept.of_completed h₉).holds (b := .acc) (by decide) hpow, hlog⟩

/-! ### The whole command -/

/-- The state after the accepted `CMD` store of TRANSFORM, with no turn listed behind it (R202, R208). -/
def State.transformAccepted (s : State) : State :=
  { s.accept .transform with upc := 0, logmodeL := s.logmode, agenda := [], reply := some .stored }

theorem step_transformAccepted (hagenda : s.agenda = [.host (cmdAccess s.params 2)]) (hbusy : s.busy = false)
    (hlife : s.life = .ready) : step s = .next s.transformAccepted := by
  rw [cmdStoreExecutesTheCommand s 2 .transform [] hagenda hbusy rfl, exec_transform_eq_judged]
  dsimp only
  rw [hbusy, if_neg Bool.false_ne_true, if_pos hlife]
  rfl

/-- Settles O58: three stages build the engine's request; after its answer five stages and DONE make the spectrum, after
its error the command is over. -/
theorem transformComputesTheLogPowerSpectrum : Obligations.TransformComputesTheLogPowerSpectrum := by
  intro s c x hinv hurom hpath hagenda hbusy hlife hctx hx N nan win packed y m p pc
  have hstart := step_transformAccepted hagenda hbusy hlife
  have hs : Started s.transformAccepted :=
    ⟨everyStepKeepsTheInvariant s _ hinv hstart, hurom, hpath, rfl, rfl, rfl⟩
  obtain ⟨s₃, h₃, hk₃, hwork, hfin⟩ := hs.frame_stages hx
  have hn : s₃.params.n = N := congrArg Params.n h₃.control.params
  have hctx₃ : s₃.ctx = some c := h₃.control.ctx.trans hctx
  have hdraws : s₃.draws = s.draws + 3 := h₃.draws
  split
  next hok =>
    obtain ⟨s₄, hfft, hfout⟩ := fft_completes hn hctx₃ hfin h₃.wf (hdraws ▸ hok)
    have h₄ := hs.next h₃ rfl hfft
    have hk₄ := hk₃.next hfft
    obtain ⟨s₉, h₉, hk, hre, him, hacc, hout⟩ := hs.spectrum_stages h₄ (hk₄.real .pcoef (by decide)) hfout
    have hk₉ := (Kept.of_completed hfft).trans hk
    have hall := hk₄.trans hk
    have hend : runSteps 11 s = .next s₉.succeed :=
      (runSteps_succ hstart 10).trans (runSteps_snoc h₉.run (hs.step h₉ rfl rfl))
    exact ⟨s₉.succeed, hend, hout, fun k hk => ⟨hacc k hk, hre k hk, him k hk⟩,
      fun i hi => ⟨hk₉.holds (b := .work) (by decide) hwork i hi, hk₉.holdsCplx (b := .fin) (by decide) hfin i hi,
        hk.holdsCplx (b := .fout) (by decide) hfout i hi⟩,
      h₉.control.life.trans hlife, rfl, rfl, rfl, h₉.upc, rfl, hall.real .input (by decide),
      hall.real .hann (by decide), hall.real .pcoef (by decide), h₉.control.ctx, h₉.control.logmode⟩
  next hfail =>
    have hexec := exec_fft_fails hn hctx₃ hfin (hdraws ▸ Bool.eq_false_iff.mpr hfail)
    exact ⟨_, (runSteps_succ hstart 4).trans (runSteps_snoc h₃.run (hs.step h₃ rfl hexec)),
      hk₃.real .out (by decide), hk₃.real .input (by decide), h₃.control.life.trans hlife, rfl, rfl, rfl, h₃.upc, rfl,
      vacant_clearBuf _, h₃.control.ctx, hk₃.real .re (by decide), hk₃.real .im (by decide),
      hk₃.real .acc (by decide)⟩

end Sys2Proof.Machine
end
